-- ==== Sys2Proof/Word.lean ====
section
/-! DEFINITION. The types of the machine's values (00_scope.md R6, R7): a byte is a general register, a timer or a
memory cell; a word is I, pc, a stack slot or an instruction; a register number is the value of the field x or y. All
values are unsigned. -/

namespace Sys2Proof

/-- An 8-bit value (R6 `XLEN`). -/
abbrev Byte := BitVec 8

/-- A 16-bit value (R6 `I_WIDTH`, `PC_WIDTH`, `ILEN`). -/
abbrev Word := BitVec 16

/-- The number of a general register: the value of the field x or y (R21, R73). -/
abbrev RegNum := Fin 16

/-- The 4-bit field n (R71). -/
abbrev Nibble := BitVec 4

/-- The 12-bit field nnn (R71). -/
abbrev Addr := BitVec 12

/-- The flag value of R22: a byte that holds 0 or 1. -/
def flagByte (b : Bool) : Byte := if b then 1 else 0

end Sys2Proof
end

