-- ==== Sys2Proof/Machine/Flags.lean ====
section
/-! DEFINITION. The values VF receives as a flag from the arithmetic instructions (10_state.md R22, 42_alu.md R117 to
R121). The collision flag of DXYN comes out of the draw itself, in Ops.lean. -/

namespace Sys2Proof.Machine

/-- 8XY4: "1 if VX + VY > 255", on the unreduced sum (R9, R117). -/
def carryOut (vx vy : Byte) : Bool := decide (vx.toNat + vy.toNat > 255)

/-- 8XY5 and 8XY7: 1 when no borrow occurs, equality included (R118, R120). -/
def noBorrow (minuend subtrahend : Byte) : Bool := decide (minuend.toNat ≥ subtrahend.toNat)

/-- 8XY6: "bit 0 of VX (the bit shifted out)" (R119). -/
def shiftedOutRight (vx : Byte) : Bool := vx.getLsbD 0

/-- 8XYE: "bit 7 of VX (the bit shifted out)" (R121). -/
def shiftedOutLeft (vx : Byte) : Bool := vx.getLsbD 7

end Sys2Proof.Machine
end

