-- ==== Sys2Proof/Syntax.lean ====
section
/-! DEFINITION. The instructions: one constructor for each of the 34 rows of the opcode table (30_encoding.md R75), in
the table's order. The types of the operands are exactly the ranges of the fields (R71, R73), so every term of `Instr`
is an instruction the table has. -/

namespace Sys2Proof

/-- The 34 instructions of `CHIP-8/base-34` (R2, R75). -/
inductive Instr where
  /-- 00E0 `CLS` -/
  | cls
  /-- 00EE `RET` -/
  | ret
  /-- 1NNN `JP nnn` -/
  | jp (nnn : Addr)
  /-- 2NNN `CALL nnn` -/
  | call (nnn : Addr)
  /-- 3XNN `SE Vx, nn` -/
  | seImm (x : RegNum) (nn : Byte)
  /-- 4XNN `SNE Vx, nn` -/
  | sneImm (x : RegNum) (nn : Byte)
  /-- 5XY0 `SE Vx, Vy` -/
  | seReg (x y : RegNum)
  /-- 6XNN `LD Vx, nn` -/
  | ldImm (x : RegNum) (nn : Byte)
  /-- 7XNN `ADD Vx, nn` -/
  | addImm (x : RegNum) (nn : Byte)
  /-- 8XY0 `LD Vx, Vy` -/
  | ldReg (x y : RegNum)
  /-- 8XY1 `OR Vx, Vy` -/
  | orReg (x y : RegNum)
  /-- 8XY2 `AND Vx, Vy` -/
  | andReg (x y : RegNum)
  /-- 8XY3 `XOR Vx, Vy` -/
  | xorReg (x y : RegNum)
  /-- 8XY4 `ADD Vx, Vy` -/
  | addReg (x y : RegNum)
  /-- 8XY5 `SUB Vx, Vy` -/
  | subReg (x y : RegNum)
  /-- 8XY6 `SHR Vx`; y is decoded and ignored (R77) -/
  | shr (x y : RegNum)
  /-- 8XY7 `SUBN Vx, Vy` -/
  | subnReg (x y : RegNum)
  /-- 8XYE `SHL Vx`; y is decoded and ignored (R77) -/
  | shl (x y : RegNum)
  /-- 9XY0 `SNE Vx, Vy` -/
  | sneReg (x y : RegNum)
  /-- ANNN `LD I, nnn` -/
  | ldI (nnn : Addr)
  /-- BNNN `JP V0, nnn` -/
  | jpV0 (nnn : Addr)
  /-- CXNN `RND Vx, nn` -/
  | rnd (x : RegNum) (nn : Byte)
  /-- DXYN `DRW Vx, Vy, n` -/
  | drw (x y : RegNum) (n : Nibble)
  /-- EX9E `SKP Vx` -/
  | skp (x : RegNum)
  /-- EXA1 `SKNP Vx` -/
  | sknp (x : RegNum)
  /-- FX07 `LD Vx, DT` -/
  | ldVxDt (x : RegNum)
  /-- FX0A `LD Vx, K` -/
  | ldVxK (x : RegNum)
  /-- FX15 `LD DT, Vx` -/
  | ldDtVx (x : RegNum)
  /-- FX18 `LD ST, Vx` -/
  | ldStVx (x : RegNum)
  /-- FX1E `ADD I, Vx` -/
  | addI (x : RegNum)
  /-- FX29 `LD F, Vx` -/
  | ldF (x : RegNum)
  /-- FX33 `LD B, Vx` -/
  | ldB (x : RegNum)
  /-- FX55 `LD [I], Vx` -/
  | storeRegs (x : RegNum)
  /-- FX65 `LD Vx, [I]` -/
  | loadRegs (x : RegNum)
deriving DecidableEq, Repr

end Sys2Proof
end

