-- ==== Sys2Proof/Decode.lean ====
section
/-! DEFINITION. The decoder of 30_encoding.md (R70 to R74): fields, the decode tree, bytes to instructions; and after it the
encoder, written from the formats of R72. -/

namespace Sys2Proof

/-- Why bytes are no instruction. -/
inductive Reject where
  /-- the word is one of the illegal words of R76 -/
  | unknownOpcode (op : Word)
  /-- fewer than the two bytes every instruction has (R70) -/
  | truncated
deriving DecidableEq, Repr

/-- `op[15:12]` (R71). -/
def fieldClass (op : Word) : Nibble := op.extractLsb' 12 4

/-- `x = op[11:8]` (R71). -/
def fieldX (op : Word) : RegNum := (op.extractLsb' 8 4).toFin

/-- `y = op[7:4]` (R71). -/
def fieldY (op : Word) : RegNum := (op.extractLsb' 4 4).toFin

/-- `n = op[3:0]` (R71). -/
def fieldN (op : Word) : Nibble := op.extractLsb' 0 4

/-- `nn = op[7:0]` (R71). -/
def fieldNN (op : Word) : Byte := op.extractLsb' 0 8

/-- `nnn = op[11:0]` (R71). -/
def fieldNNN (op : Word) : Addr := op.extractLsb' 0 12

/-- Class 0 matches on the whole word (R74). -/
def decodeClass0 (op : Word) : Option Instr :=
  if op = 0x00E0 then some .cls else if op = 0x00EE then some .ret else none

/-- Class 8 is decided by n (R74). -/
def decodeClass8 (n : Nat) (x y : RegNum) : Option Instr :=
  match n with
  | 0x0 => some (.ldReg x y)
  | 0x1 => some (.orReg x y)
  | 0x2 => some (.andReg x y)
  | 0x3 => some (.xorReg x y)
  | 0x4 => some (.addReg x y)
  | 0x5 => some (.subReg x y)
  | 0x6 => some (.shr x y)
  | 0x7 => some (.subnReg x y)
  | 0xE => some (.shl x y)
  | _ => none

/-- Class E is decided by nn (R74). -/
def decodeClassE (nn : Nat) (x : RegNum) : Option Instr :=
  match nn with
  | 0x9E => some (.skp x)
  | 0xA1 => some (.sknp x)
  | _ => none

/-- Class F is decided by nn (R74). -/
def decodeClassF (nn : Nat) (x : RegNum) : Option Instr :=
  match nn with
  | 0x07 => some (.ldVxDt x)
  | 0x0A => some (.ldVxK x)
  | 0x15 => some (.ldDtVx x)
  | 0x18 => some (.ldStVx x)
  | 0x1E => some (.addI x)
  | 0x29 => some (.ldF x)
  | 0x33 => some (.ldB x)
  | 0x55 => some (.storeRegs x)
  | 0x65 => some (.loadRegs x)
  | _ => none

/-- The decode tree (R74): the instruction a word is, or none for an illegal word. The last arm is not reached, a class
having four bits. -/
def decodeInstr (op : Word) : Option Instr :=
  let x := fieldX op
  let y := fieldY op
  let n := fieldN op
  let nn := fieldNN op
  let nnn := fieldNNN op
  match (fieldClass op).toNat with
  | 0x0 => decodeClass0 op
  | 0x1 => some (.jp nnn)
  | 0x2 => some (.call nnn)
  | 0x3 => some (.seImm x nn)
  | 0x4 => some (.sneImm x nn)
  | 0x5 => if n = 0 then some (.seReg x y) else none
  | 0x6 => some (.ldImm x nn)
  | 0x7 => some (.addImm x nn)
  | 0x8 => decodeClass8 n.toNat x y
  | 0x9 => if n = 0 then some (.sneReg x y) else none
  | 0xA => some (.ldI nnn)
  | 0xB => some (.jpV0 nnn)
  | 0xC => some (.rnd x nn)
  | 0xD => some (.drw x y n)
  | 0xE => decodeClassE nn.toNat x
  | 0xF => decodeClassF nn.toNat x
  | _ => none

/-- `Decode(op)`, total on the 65536 words, an illegal word rejected by name with its raw value (R74, R161). -/
def decode (op : Word) : Except Reject Instr :=
  match decodeInstr op with
  | some i => .ok i
  | none => .error (.unknownOpcode op)

/-- A word from its two bytes, the byte at the lower address being the high one (R54, R70). -/
def wordOfBytes (hi lo : Byte) : Word := hi ++ lo

/-- The byte of a word that stands at the lower address (R70). -/
def highByte (op : Word) : Byte := op.extractLsb' 8 8

/-- The byte of a word that stands at the higher address (R70). -/
def lowByte (op : Word) : Byte := op.extractLsb' 0 8

/-- The first instruction of a list of bytes, and the bytes after it (R70). -/
def decodeBytes : List Byte → Except Reject (Instr × List Byte)
  | hi :: lo :: rest =>
    match decode (wordOfBytes hi lo) with
    | .ok i => .ok (i, rest)
    | .error e => .error e
  | [_] => .error .truncated
  | [] => .error .truncated

/-- The word of an opcode-table row: bit 0 is the least significant bit (R7); a row of more than 16 bits is none of this
instruction set's, which has one length (R70). -/
def tableWord (nbits w : Nat) : Option Word :=
  if nbits ≤ 16 then some (BitVec.ofNat 16 (w % 2 ^ nbits)) else none

/-- The instruction the decoder reads from a table row's word, laid out as it stands in memory: high byte first. -/
def decodeTableWord (nbits w : Nat) : Option Instr :=
  match tableWord nbits w with
  | none => none
  | some op =>
    match decodeBytes [highByte op, lowByte op] with
    | .ok (i, _) => some i
    | .error _ => none

/-- Format A, `cccc aaaa aaaa aaaa` (R72). -/
def formatA (c : Nibble) (nnn : Addr) : Word := c ++ nnn

/-- Format XK, `cccc xxxx kkkk kkkk`, and format X, whose nn is fixed (R72). -/
def formatXK (c : Nibble) (x : RegNum) (nn : Byte) : Word := c ++ (BitVec.ofFin x : Nibble) ++ nn

/-- Format XY, `cccc xxxx yyyy ssss`, and format XYN, whose last nibble is n (R72). -/
def formatXYN (c : Nibble) (x y : RegNum) (n : Nibble) : Word :=
  c ++ (BitVec.ofFin x : Nibble) ++ (BitVec.ofFin y : Nibble) ++ n

/-- The word of an instruction (R72, R75). -/
def encode : Instr → Word
  | .cls => 0x00E0
  | .ret => 0x00EE
  | .jp nnn => formatA 0x1 nnn
  | .call nnn => formatA 0x2 nnn
  | .seImm x nn => formatXK 0x3 x nn
  | .sneImm x nn => formatXK 0x4 x nn
  | .seReg x y => formatXYN 0x5 x y 0x0
  | .ldImm x nn => formatXK 0x6 x nn
  | .addImm x nn => formatXK 0x7 x nn
  | .ldReg x y => formatXYN 0x8 x y 0x0
  | .orReg x y => formatXYN 0x8 x y 0x1
  | .andReg x y => formatXYN 0x8 x y 0x2
  | .xorReg x y => formatXYN 0x8 x y 0x3
  | .addReg x y => formatXYN 0x8 x y 0x4
  | .subReg x y => formatXYN 0x8 x y 0x5
  | .shr x y => formatXYN 0x8 x y 0x6
  | .subnReg x y => formatXYN 0x8 x y 0x7
  | .shl x y => formatXYN 0x8 x y 0xE
  | .sneReg x y => formatXYN 0x9 x y 0x0
  | .ldI nnn => formatA 0xA nnn
  | .jpV0 nnn => formatA 0xB nnn
  | .rnd x nn => formatXK 0xC x nn
  | .drw x y n => formatXYN 0xD x y n
  | .skp x => formatXK 0xE x 0x9E
  | .sknp x => formatXK 0xE x 0xA1
  | .ldVxDt x => formatXK 0xF x 0x07
  | .ldVxK x => formatXK 0xF x 0x0A
  | .ldDtVx x => formatXK 0xF x 0x15
  | .ldStVx x => formatXK 0xF x 0x18
  | .addI x => formatXK 0xF x 0x1E
  | .ldF x => formatXK 0xF x 0x29
  | .ldB x => formatXK 0xF x 0x33
  | .storeRegs x => formatXK 0xF x 0x55
  | .loadRegs x => formatXK 0xF x 0x65

/-- The two bytes of an instruction, as they stand in memory: high byte first (R70). -/
def encodeBytes (i : Instr) : List Byte := [highByte (encode i), lowByte (encode i)]

end Sys2Proof
end

