-- ==== Sys2Proof/Config.lean ====
section
/-! DEFINITION. What is fixed for one machine: the sizes of 00_scope.md R6, the timer policy, and the three things the
spec leaves to the implementation. Those three are constants without a body: no proof can see a value of them, so what
is proved holds for every font, every random source and every tie-break among pressed keys. -/

namespace Sys2Proof.Config

/-- `MEM_SIZE`: addresses 0x000 to 0xFFF (R6, R50). -/
abbrev memSize : Nat := 4096

/-- `PROG_BASE`: the reset value of pc and the address a program is loaded at (R6, R195). -/
abbrev progBase : Nat := 0x200

/-- `ROM_MAX`: the longest program, in bytes (R6, R193). -/
abbrev romMax : Nat := 3584

/-- `STACK_DEPTH` (R6, R26). -/
abbrev stackDepth : Nat := 16

/-- The size of the font table: 16 glyphs of 5 bytes (R6). -/
abbrev fontSize : Nat := 80

/-- The two policies of 60_exceptions.md R176. -/
inductive TimerPolicy where
  /-- a step never decrements; `Tick` is an event of its own -/
  | decoupled
  /-- one tick at the end of every step whose outcome is `Ok`; there is no `Tick` event -/
  | perStep
deriving DecidableEq, Repr

/-- The policy of this hardware: "This spec chooses `TIMER_POLICY = decoupled`" (R176, C2). -/
def timerPolicy : TimerPolicy := .decoupled

/-- `FONT[0..79]`, a parameter of the model (R42, R6): the source gives none of its values. FREE VALUE, log entry 1. -/
opaque font : Vector Byte 80

/-- The random bytes that steps draw when the driver is not named: the k-th draw is `rndByte k`, under no law (R151).
FREE VALUE, log entry 2. -/
opaque rndByte : Nat → Byte

/-- The tie-break inside `KeySelect` (R6, R153), used only when several latches are set: which of the pressed keys FX0A
reports, as a position among them. FREE VALUE, log entry 3. -/
opaque keyChoice : Vector Bool 16 → Nat

/-- The customary font, the default value that R42 gives the parameter `FONT`. No definition of the machine uses it; a
test program about a picture takes `font.toList = customaryFont` as its premise. -/
def customaryFont : List Byte :=
  [0xF0, 0x90, 0x90, 0x90, 0xF0, 0x20, 0x60, 0x20, 0x20, 0x70] ++
  [0xF0, 0x10, 0xF0, 0x80, 0xF0, 0xF0, 0x10, 0xF0, 0x10, 0xF0] ++
  [0x90, 0x90, 0xF0, 0x10, 0x10, 0xF0, 0x80, 0xF0, 0x10, 0xF0] ++
  [0xF0, 0x80, 0xF0, 0x90, 0xF0, 0xF0, 0x10, 0x20, 0x40, 0x40] ++
  [0xF0, 0x90, 0xF0, 0x90, 0xF0, 0xF0, 0x90, 0xF0, 0x10, 0xF0] ++
  [0xF0, 0x90, 0xF0, 0x90, 0x90, 0xE0, 0x90, 0xE0, 0x90, 0xE0] ++
  [0xF0, 0x80, 0x80, 0x80, 0xF0, 0xE0, 0x90, 0x90, 0x90, 0xE0] ++
  [0xF0, 0x80, 0xF0, 0x80, 0xF0, 0xF0, 0x80, 0xF0, 0x80, 0x80]

end Sys2Proof.Config
end

