-- ==== Sys2Proof/Machine/Memory.lean ====
section
/-! DEFINITION. The one address space `Mem` (20_memory.md R50 to R57) as a list of address and byte pairs in one canonical
form: addresses strictly rising, all below 0x1000, and no entry equal to what an unlisted address reads as. The range
checks of R52 and R53 stand with the accesses, in Operands.lean and Ops.lean. -/

namespace Sys2Proof.Machine

/-- `Mem[0x000..0xFFF]` (R50): the bytes that differ from their reset contents. -/
abbrev Memory := List Host.Cell

/-- What an unlisted address reads as: the reset contents of R40 and R51, the font at 0x000 to 0x04F and zero above. -/
def unlisted (a : Nat) : Byte := if h : a < Config.fontSize then Config.font[a] else 0

/-- The listed byte at an address, if there is one. -/
def Memory.lookup : Memory → Nat → Option Byte
  | [], _ => none
  | c :: m, a => if c.1 = a then some c.2 else Memory.lookup m a

/-- `Mem[a]`: "a byte read returns the last byte written there by reset, the ROM loader or a store instruction" (R56). -/
def Memory.read (m : Memory) (a : Nat) : Byte := (m.lookup a).getD (unlisted a)

/-- List the byte at its place in the order of addresses. -/
def Memory.list : Memory → Nat → Byte → Memory
  | [], a, v => [(a, v)]
  | c :: m, a, v =>
    if a < c.1 then (a, v) :: c :: m
    else if a = c.1 then (a, v) :: m
    else c :: Memory.list m a v

/-- Take an address off the list. -/
def Memory.unlist (m : Memory) (a : Nat) : Memory := m.filter fun c => c.1 != a

/-- `Mem[a] <- v` for an address that exists; an address above 0xFFF names no cell and nothing is written (log entry 14;
no instruction reaches that case, R63). -/
def Memory.write (m : Memory) (a : Nat) (v : Byte) : Memory :=
  if a < Config.memSize then
    if v = unlisted a then m.unlist a else m.list a v
  else m

/-- Bytes written at consecutive addresses, the first at `a` (R54). -/
def Memory.writeBytes : Memory → Nat → List Byte → Memory
  | m, _, [] => m
  | m, a, b :: bs => Memory.writeBytes (m.write a b) (a + 1) bs

/-- `k` bytes read from consecutive addresses, the first at `a` (R54). -/
def Memory.readBytes (m : Memory) (a k : Nat) : List Byte := (List.range k).map fun j => m.read (a + j)

/-- The canonical form. -/
abbrev Memory.wf (m : Memory) : Prop :=
  m.Pairwise (fun c d => c.1 < d.1) ∧ ∀ c ∈ m, c.1 < Config.memSize ∧ c.2 ≠ unlisted c.1

end Sys2Proof.Machine
end

