-- ==== Sys2Proof/Machine/State.lean ====
section
/-! DEFINITION. The state of the core (10_state.md R20), its value after reset (R40), and the reasons a step could stop. -/

namespace Sys2Proof.Machine

/-- No step of this machine ends in a fault. Every error the spec names is a fatal condition whose entry it describes (R160,
R170): the step goes to a next state, in which `status` says what happened, and a halted core's steps change nothing
(R38). So this type has no constructor (log entry 5; safe: there is nothing it could hide). -/
inductive Fault where
deriving DecidableEq, Repr

/-- No meaning refuses: all 34 instructions have the effect the spec gives them. -/
inductive Refusal where
  /-- Raised only by an arm of `exec` for an instruction that has no meaning yet; there is none. Safe: the run stops. -/
  | notModelled (mnemonic : String)
deriving DecidableEq, Repr

/-- The field `cause` of `status` (R32, R160). Its eighth code, 7, "never occurs". -/
inductive Cause where
  /-- 0, while not halted -/
  | none
  /-- 1, raised in DECODE by an illegal word (R161) -/
  | unknownOpcode
  /-- 2, raised by 2NNN when SP = 16 (R162) -/
  | stackOverflow
  /-- 3, raised by 00EE when SP = 0 (R163) -/
  | stackUnderflow
  /-- 4, `AddressFault_fetch`, raised in FETCH when pc > 0xFFE (R164) -/
  | addressFaultFetch
  /-- 5, `AddressFault_data`, raised by DXYN, FX33, FX55 and FX65 (R165) -/
  | addressFaultData
  /-- 6, raised by EX9E and EXA1 when VX > 0xF (R166) -/
  | keyIndexFault
deriving DecidableEq, Repr

/-- The run status register (R32). -/
structure Status where
  halted : Bool
  cause : Cause
  info : Word
deriving DecidableEq, Repr

/-- `halted = 0`, and then `cause = 0` and `info = 0` (R32). -/
def Status.running : Status := { halted := false, cause := .none, info := 0 }

/-- `fb`, row by row: row py (0 to 31) holds the pixels of columns 0 to 63 (R29, D19). -/
abbrev Frame := Vector (Vector Bool 64) 32

/-- The key latches (R30). -/
abbrev Keys := Vector Bool 16

/-- The state of the core (R20), and two fields of the model's own for the input `rnd` of `Step(rnd)` (log entry 2). -/
structure State where
  /-- `Mem` (R33, R50) -/
  mem : Memory
  /-- `V[0..15]`, VF being `V[15]` (R21, R22) -/
  v : Vector Byte 16
  /-- the index register I (R23) -/
  i : Word
  /-- the program counter (R24) -/
  pc : Word
  /-- the 16 slots of the call stack (R26) -/
  stack : Vector Word 16
  /-- the stack pointer: the number of occupied slots, 0 to 16 (R26) -/
  sp : Fin 17
  /-- the delay timer (R27) -/
  dt : Byte
  /-- the sound timer (R28) -/
  st : Byte
  /-- the framebuffer (R29) -/
  fb : Frame
  /-- the key latches (R30) -/
  key : Keys
  /-- the run status register (R32) -/
  status : Status
  /-- MODEL: the byte the driver has put on the input `rnd` of the coming step; `none` leaves the byte free -/
  rndIn : Option Byte
  /-- MODEL: how many free random bytes have been drawn -/
  draws : Nat
deriving DecidableEq, Repr

/-- The framebuffer with every pixel 0 (R40, R141). -/
def Frame.clear : Frame := Vector.replicate 32 (Vector.replicate 64 false)

/-- The state right after `Reset` (R40): memory lists nothing, so every address reads as its reset contents. The key latches
are released (D16, log entry 8). -/
def State.reset : State where
  mem := []
  v := Vector.replicate 16 0
  i := 0
  pc := 0x0200
  stack := Vector.replicate 16 0
  sp := 0
  dt := 0
  st := 0
  fb := Frame.clear
  key := Vector.replicate 16 false
  status := Status.running
  rndIn := none
  draws := 0

end Sys2Proof.Machine
end

