-- ==== Sys2Proof/Machine/Ops.lean ====
section
/-! DEFINITION. The named operations over the state that the meanings share: registers, pc, the call stack, taking a fatal
condition, fetch, pixels, keys, the random input and the tick. Taking a fatal condition has no return beside it: "There
is no return from a fatal condition" (60_exceptions.md R171); `Reset` alone leaves the halt. -/

namespace Sys2Proof.Machine

/-- What an instruction or a step answers. -/
abbrev Result := Host.Outcome State Fault Refusal

/-- VF is `V[15]` (R21). -/
def regVF : RegNum := 15

/-- `V[r]` (R21). -/
def State.reg (s : State) (r : RegNum) : Byte := s.v.get r

/-- `V[r] <- b` (R21). -/
def State.setReg (s : State) (r : RegNum) (b : Byte) : State := { s with v := s.v.set r b }

/-- VF receives a flag: 0 or 1 (R22). -/
def State.setFlag (s : State) (f : Bool) : State := s.setReg regVF (flagByte f)

/-- `I <- w` (R23). -/
def State.setI (s : State) (w : Word) : State := { s with i := w }

/-- `pc <- w` (R24). -/
def State.setPc (s : State) (w : Word) : State := { s with pc := w }

/-- `pc <- pc0 + 2`, modulo 65536 (R24, R25). -/
def State.advance (s : State) : State := s.setPc (s.pc + 2)

/-- A skip is `pc <- pc0 + 4`, a fall-through `pc <- pc0 + 2` (R100). -/
def State.skipIf (s : State) (c : Bool) : State := s.setPc (if c then s.pc + 4 else s.pc + 2)

/-- `DT <- b` (R27). -/
def State.setDt (s : State) (b : Byte) : State := { s with dt := b }

/-- `ST <- b` (R28). -/
def State.setSt (s : State) (b : Byte) : State := { s with st := b }

/-- The instruction completes: the step's outcome is `Ok` (R37). -/
def complete (s : State) : Result := .next s

/-- The state after a fatal condition: only `status` differs (R170). -/
def State.halt (s : State) (c : Cause) (info : Word) : State :=
  { s with status := { halted := true, cause := c, info := info } }

/-- `raise C(info)`: nothing the instruction would have written is written, `status` records the condition, pc stays at the
offending instruction (R170). -/
def raise (c : Cause) (info : Word) (s : State) : Result := .next (s.halt c info)

/-- The code of a cause as the host reads it (R32, R160). -/
def Cause.code : Cause → BitVec 3
  | .none => 0
  | .unknownOpcode => 1
  | .stackOverflow => 2
  | .stackUnderflow => 3
  | .addressFaultFetch => 4
  | .addressFaultData => 5
  | .keyIndexFault => 6

/-- `stack[SP] <- w`, then `SP <- SP + 1`; none when all 16 slots are occupied (R26, R93). -/
def State.push (s : State) (w : Word) : Option State :=
  if h : s.sp.val < Config.stackDepth then
    some { s with stack := s.stack.set s.sp.val w h, sp := ⟨s.sp.val + 1, Nat.succ_lt_succ h⟩ }
  else none

/-- `SP <- SP - 1`, then read `stack[SP]`, which keeps its value; none when no slot is occupied (R26, R91). -/
def State.pop (s : State) : Option (Word × State) :=
  if h : 0 < s.sp.val then
    let k : Fin 16 := ⟨s.sp.val - 1, by omega⟩
    some (s.stack.get k, { s with sp := ⟨k.val, by omega⟩ })
  else none

/-- `Fetch(pc)`, big-endian; none when pc or pc + 1 is outside 0x000 to 0xFFF, neither reduced first (R53). -/
def State.fetch (s : State) : Option Word :=
  if s.pc.toNat ≤ 0xFFE then some (wordOfBytes (s.mem.read s.pc.toNat) (s.mem.read (s.pc.toNat + 1))) else none

/-- `fb[px][py]` (R29). -/
def Frame.pixel (f : Frame) (px : Fin 64) (py : Fin 32) : Bool := (f.get py).get px

/-- `fb[px][py] <- fb[px][py] ^ 1` (R142). -/
def Frame.toggle (f : Frame) (px : Fin 64) (py : Fin 32) : Frame := f.set py ((f.get py).set px (!f.pixel px py))

/-- A draw in progress: the framebuffer so far, and whether a pixel that was 1 has been cleared (R142). -/
abbrev Drawing := Frame × Bool

/-- One 1 bit of the sprite toggles its pixel; the toggle of a pixel that was 1 is the collision (R142). -/
def Drawing.plot (d : Drawing) (px : Fin 64) (py : Fin 32) : Drawing := (d.1.toggle px py, d.2 || d.1.pixel px py)

/-- Sprite column c of a row byte is bit 7 - c of it (R140). -/
def spriteBit (b : Byte) (c : Nat) : Bool := b.getLsbD (7 - c)

/-- The framebuffer column of sprite column c: `(VX + c) mod 64` (R140). -/
def spriteX (vx : Byte) (c : Nat) : Fin 64 := Fin.ofNat 64 (vx.toNat + c)

/-- The framebuffer row of sprite row r: `(VY + r) mod 32` (R140). -/
def spriteY (vy : Byte) (r : Nat) : Fin 32 := Fin.ofNat 32 (vy.toNat + r)

/-- One row of the sprite, column by column (R142). -/
def Drawing.row (d : Drawing) (vx vy b : Byte) (r : Nat) : Drawing :=
  (List.range 8).foldl (fun d c => if spriteBit b c then d.plot (spriteX vx c) (spriteY vy r) else d) d

/-- The rows of the sprite from row r on, one for each byte (R142). -/
def Drawing.rows (d : Drawing) (vx vy : Byte) : Nat → List Byte → Drawing
  | _, [] => d
  | r, b :: bs => Drawing.rows (d.row vx vy b r) vx vy (r + 1) bs

/-- The pressed keys, lowest index first (R30). -/
def pressedKeys (k : Keys) : List RegNum := (List.finRange 16).filter fun j => k.get j

/-- `KeySelect(key)`: the index of a pressed key, none when no latch is set. With exactly one latch set it is that index;
with several it is one of them, which one being free (R6, R153; log entry 3). -/
def keySelect (k : Keys) : Option RegNum :=
  match pressedKeys k with
  | [] => none
  | [j] => some j
  | j :: js => some ((j :: js).getD (Config.keyChoice k % (js.length + 1)) j)

/-- The step's input `rnd`: the byte the driver supplied, or a free byte, fresh at each draw (R151; log entry 2). -/
def State.rndByte (s : State) : Byte := s.rndIn.getD (Config.rndByte s.draws)

/-- The input is used up by the step that reads it. -/
def State.consumeRnd (s : State) : State :=
  match s.rndIn with
  | some _ => { s with rndIn := none }
  | none => { s with draws := s.draws + 1 }

/-- A counter that is not 0 counts down, one at 0 stays 0 (R174). -/
def countDown (b : Byte) : Byte := if b = 0 then 0 else b - 1

/-- `Tick()`: DT and ST count down; nothing else changes (R174). -/
def State.tick (s : State) : State := { s with dt := countDown s.dt, st := countDown s.st }

/-- `tone_fired`, the result of the tick that takes ST from 1 to 0 (R174, R175). -/
def State.toneFired (s : State) : Bool := s.st == 1

/-- `tone_active`, a level: `ST != 0` (R28, R175). -/
def State.toneActive (s : State) : Bool := s.st != 0

end Sys2Proof.Machine
end

