-- ==== Sys2Proof/Machine/Operands.lean ====
section
/-! DEFINITION. The operand forms (30_encoding.md R73, 43_index_mem.md R130): a register, an immediate, a key index, the
registers V0 to VX, and "memory starting at I", the only addressing mode of the instruction set. -/

namespace Sys2Proof.Machine

/-- nnn "is zero-extended to 16 bits when written to pc or I" (R73). -/
def extendAddr (nnn : Addr) : Word := nnn.setWidth 16

/-- An 8-bit register taken at 16 bits, without sign (R73, R132, R133). -/
def extendByte (b : Byte) : Word := b.setWidth 16

/-- The effective address of the k-th byte, `i0 + k`, on unbounded integers: never truncated (R52, R130). -/
def State.address (s : State) (k : Nat) : Nat := s.i.toNat + k

/-- The test of R63 on the highest address an instruction would touch: it exists when it is at most 0xFFF. -/
def State.reaches (s : State) (last : Nat) : Bool := decide (s.address last ≤ 0xFFF)

/-- An instruction that touches the bytes I to I + last: precise, so it changes nothing when the last does not exist
(R52, R63, R165). -/
def State.withAccess (s : State) (last : Nat) (meaning : Result) : Result :=
  if s.reaches last then meaning else raise .addressFaultData s.i s

/-- V0 to VX inclusive, x + 1 registers (R135). -/
def State.regsTo (s : State) (x : RegNum) : List Byte := s.v.toList.take (x.val + 1)

/-- `for k in 0..x: V[k] <- MemRead(i0 + k)`; the registers above x keep their values (R136). -/
def State.loadRegsTo (s : State) (x : RegNum) : State :=
  { s with v := Vector.ofFn fun k : Fin 16 => if k ≤ x then s.mem.read (s.address k.val) else s.reg k }

/-- Bytes stored at I, I + 1, and so on (R54, R130). -/
def State.store (s : State) (bs : List Byte) : State := { s with mem := s.mem.writeBytes (s.address 0) bs }

/-- The latch that VX names, none when VX is above 0xF: "the value is not masked to 4 bits" (R105, R106). -/
def State.latchOf (s : State) (x : RegNum) : Option Bool :=
  if h : (s.reg x).toNat < 16 then some (s.key.get ⟨(s.reg x).toNat, h⟩) else none

/-- The three decimal digits of a byte: hundreds, tens, ones (R134). -/
def decimalDigits (b : Byte) : List Byte :=
  [BitVec.ofNat 8 (b.toNat / 100), BitVec.ofNat 8 (b.toNat / 10 % 10), BitVec.ofNat 8 (b.toNat % 10)]

/-- The bytes of a sprite of n rows: I to I + n - 1 (R140). -/
def State.spriteBytes (s : State) (n : Nat) : List Byte := s.mem.readBytes (s.address 0) n

end Sys2Proof.Machine
end

