-- ==== Sys2Proof/Machine/Alu.lean ====
section
/-! DEFINITION. Register load and arithmetic: 6XNN, 7XNN, 8XY0 to 8XYE (42_alu.md R110 to R121). The operands are read
before anything is written, VF is written before VX (R10, R110; log entry 11). -/

namespace Sys2Proof.Machine

/-- The result goes to VX and VF is left alone (R110). -/
def State.result (s : State) (x : RegNum) (r : Byte) : State := (s.setReg x r).advance

/-- VF receives the flag, then VX the result: with x = 0xF the result replaces the flag (R110). -/
def State.flagResult (s : State) (f : Bool) (x : RegNum) (r : Byte) : State := ((s.setFlag f).setReg x r).advance

/-- 6XNN (R111). -/
def execLdImm (x : RegNum) (nn : Byte) (s : State) : Result := complete (s.result x nn)

/-- 7XNN (R112). -/
def execAddImm (x : RegNum) (nn : Byte) (s : State) : Result := complete (s.result x (s.reg x + nn))

/-- 8XY0 (R113). -/
def execLdReg (x y : RegNum) (s : State) : Result := complete (s.result x (s.reg y))

/-- 8XY1 (R114). -/
def execOrReg (x y : RegNum) (s : State) : Result := complete (s.result x (s.reg x ||| s.reg y))

/-- 8XY2 (R115). -/
def execAndReg (x y : RegNum) (s : State) : Result := complete (s.result x (s.reg x &&& s.reg y))

/-- 8XY3 (R116). -/
def execXorReg (x y : RegNum) (s : State) : Result := complete (s.result x (s.reg x ^^^ s.reg y))

/-- 8XY4 (R117). -/
def execAddReg (x y : RegNum) (s : State) : Result :=
  complete (s.flagResult (carryOut (s.reg x) (s.reg y)) x (s.reg x + s.reg y))

/-- 8XY5 (R118). -/
def execSubReg (x y : RegNum) (s : State) : Result :=
  complete (s.flagResult (noBorrow (s.reg x) (s.reg y)) x (s.reg x - s.reg y))

/-- 8XY6 (R119): VY is neither read nor written (R77). -/
def execShr (x _y : RegNum) (s : State) : Result :=
  complete (s.flagResult (shiftedOutRight (s.reg x)) x (s.reg x >>> 1))

/-- 8XY7 (R120). -/
def execSubnReg (x y : RegNum) (s : State) : Result :=
  complete (s.flagResult (noBorrow (s.reg y) (s.reg x)) x (s.reg y - s.reg x))

/-- 8XYE (R121): VY is neither read nor written (R77). -/
def execShl (x _y : RegNum) (s : State) : Result :=
  complete (s.flagResult (shiftedOutLeft (s.reg x)) x (s.reg x <<< 1))

end Sys2Proof.Machine
end

