-- ==== Sys2Proof/Machine/Display.lean ====
section
/-! DEFINITION. Display: 00E0, DXYN (44_display.md R140 to R142). -/

namespace Sys2Proof.Machine

/-- 00E0 (R141): VF is not written. -/
def execCls (s : State) : Result := complete { s with fb := Frame.clear }.advance

/-- The draw of n rows at (VX, VY): the new framebuffer and the collision (R142). -/
def State.drawing (s : State) (x y : RegNum) (n : Nat) : Drawing :=
  Drawing.rows (s.fb, false) (s.reg x) (s.reg y) 0 (s.spriteBytes n)

/-- The state after a draw: the framebuffer drawn, VF the collision (R142). -/
def State.drawn (s : State) (d : Drawing) : State := ({ s with fb := d.1 }.setFlag d.2).advance

/-- DXYN (R142); AddressFault_data when n >= 1 and I + n - 1 > 0xFFF. With n = 0 no address is touched. -/
def execDrw (x y : RegNum) (n : Nibble) (s : State) : Result :=
  if n = 0 then complete (s.drawn (s.drawing x y 0))
  else s.withAccess (n.toNat - 1) (complete (s.drawn (s.drawing x y n.toNat)))

end Sys2Proof.Machine
end

