-- ==== Sys2Proof/Machine/Flow.lean ====
section
/-! DEFINITION. Control transfer: 00EE, 1NNN, 2NNN, BNNN (40_flow.md R90 to R94). "A target is never checked when it is
written". -/

namespace Sys2Proof.Machine

/-- 00EE (R91); StackUnderflow when SP = 0 (R163). -/
def execRet (s : State) : Result :=
  match s.pop with
  | some (w, t) => complete (t.setPc (w + 2))
  | none => raise .stackUnderflow (encode .ret) s

/-- 1NNN (R92). -/
def execJp (nnn : Addr) (s : State) : Result := complete (s.setPc (extendAddr nnn))

/-- 2NNN (R93): the address of the call itself is pushed; StackOverflow when SP = 16 (R162). -/
def execCall (nnn : Addr) (s : State) : Result :=
  match s.push s.pc with
  | some t => complete (t.setPc (extendAddr nnn))
  | none => raise .stackOverflow (encode (.call nnn)) s

/-- BNNN (R94): the sum is formed at 16 bits and is not reduced modulo 4096. -/
def execJpV0 (nnn : Addr) (s : State) : Result := complete (s.setPc (extendAddr nnn + extendByte (s.reg 0)))

end Sys2Proof.Machine
end

