-- ==== Sys2Proof/Machine/IndexMem.lean ====
section
/-! DEFINITION. Index register, loads and stores: ANNN, FX1E, FX29, FX33, FX55, FX65 (43_index_mem.md R130 to R136). -/

namespace Sys2Proof.Machine

/-- ANNN (R131). -/
def execLdI (nnn : Addr) (s : State) : Result := complete (s.setI (extendAddr nnn)).advance

/-- FX1E (R132): modulo 65536, no flag. -/
def execAddI (x : RegNum) (s : State) : Result := complete (s.setI (s.i + extendByte (s.reg x))).advance

/-- FX29 (R133): "the whole 8-bit VX is used". -/
def execLdF (x : RegNum) (s : State) : Result := complete (s.setI (extendByte (s.reg x) * 5)).advance

/-- FX33 (R134); AddressFault_data when I + 2 > 0xFFF. -/
def execLdB (x : RegNum) (s : State) : Result :=
  s.withAccess 2 (complete (s.store (decimalDigits (s.reg x))).advance)

/-- FX55 (R135); AddressFault_data when I + x > 0xFFF. "x is the field itself, not the content of VX". -/
def execStoreRegs (x : RegNum) (s : State) : Result :=
  s.withAccess x.val (complete (s.store (s.regsTo x)).advance)

/-- FX65 (R136); AddressFault_data when I + x > 0xFFF. -/
def execLoadRegs (x : RegNum) (s : State) : Result :=
  s.withAccess x.val (complete (s.loadRegsTo x).advance)

end Sys2Proof.Machine
end

