-- ==== Sys2Proof/Machine/Skip.lean ====
section
/-! DEFINITION. Conditional skips: 3XNN, 4XNN, 5XY0, 9XY0, EX9E, EXA1 (41_skip.md R100 to R106). -/

namespace Sys2Proof.Machine

/-- 3XNN (R101). -/
def execSeImm (x : RegNum) (nn : Byte) (s : State) : Result := complete (s.skipIf (s.reg x == nn))

/-- 4XNN (R102). -/
def execSneImm (x : RegNum) (nn : Byte) (s : State) : Result := complete (s.skipIf (s.reg x != nn))

/-- 5XY0 (R103). -/
def execSeReg (x y : RegNum) (s : State) : Result := complete (s.skipIf (s.reg x == s.reg y))

/-- 9XY0 (R104). -/
def execSneReg (x y : RegNum) (s : State) : Result := complete (s.skipIf (s.reg x != s.reg y))

/-- EX9E (R105); KeyIndexFault when VX > 0xF (R166). -/
def execSkp (x : RegNum) (s : State) : Result :=
  match s.latchOf x with
  | some pressed => complete (s.skipIf pressed)
  | none => raise .keyIndexFault (encode (.skp x)) s

/-- EXA1 (R106); KeyIndexFault when VX > 0xF (R166). -/
def execSknp (x : RegNum) (s : State) : Result :=
  match s.latchOf x with
  | some pressed => complete (s.skipIf (!pressed))
  | none => raise .keyIndexFault (encode (.sknp x)) s

end Sys2Proof.Machine
end

