-- ==== Sys2Proof/Machine/TimerKeyRnd.lean ====
section
/-! DEFINITION. Timers, key wait and random: CXNN, FX07, FX0A, FX15, FX18 (45_timer_key_rnd.md R150 to R155). -/

namespace Sys2Proof.Machine

/-- CXNN (R151): `V[x] <- rnd & nn`. -/
def execRnd (x : RegNum) (nn : Byte) (s : State) : Result :=
  complete (s.consumeRnd.setReg x (s.rndByte &&& nn)).advance

/-- FX07 (R152). -/
def execLdVxDt (x : RegNum) (s : State) : Result := complete (s.setReg x s.dt).advance

/-- FX0A (R153): with no latch set the outcome is `Waiting` and no state changes; else VX receives the index of a pressed
key, and the latches stay as they are. -/
def execLdVxK (x : RegNum) (s : State) : Result :=
  match keySelect s.key with
  | none => .next s
  | some k => complete (s.setReg x (BitVec.ofNat 8 k.val)).advance

/-- FX15 (R154). -/
def execLdDtVx (x : RegNum) (s : State) : Result := complete (s.setDt (s.reg x)).advance

/-- FX18 (R155). -/
def execLdStVx (x : RegNum) (s : State) : Result := complete (s.setSt (s.reg x)).advance

end Sys2Proof.Machine
end

