-- ==== Sys2Proof/Machine/Cycle.lean ====
section
/-! DEFINITION. The fetch-decode-execute machine of 10_state.md R36 under either timer policy, and the outcomes of a step
(R37). -/

namespace Sys2Proof.Machine

/-- What a step returns to the driver (R37). -/
inductive Report where
  /-- the instruction completed -/
  | ok
  /-- "no progress this step": FX0A with no latch set -/
  | waiting
  /-- a fatal condition was raised in this step, or the core was already halted -/
  | fault (cause : Cause) (info : Word)
deriving DecidableEq, Repr

/-- The instruction is FX0A and no latch is set: the outcome is `Waiting` (R37, R153). -/
def Instr.waits (i : Instr) (s : State) : Bool :=
  match i with
  | .ldVxK _ => (keySelect s.key).isNone
  | _ => false

/-- The outcome of an instruction that took a running core from s to t (R37): a fatal condition shows in `status`. -/
def reportOf (i : Instr) (s t : State) : Report :=
  if t.status.halted then .fault t.status.cause t.status.info
  else if Instr.waits i s then .waiting
  else .ok

/-- TIMER (R36, R176): under `per_step` one tick after an instruction whose outcome is `Ok`; under `decoupled` nothing. -/
def timerPhase (p : Config.TimerPolicy) (outcome : Report) (t : State) : State :=
  match p, outcome with
  | .perStep, .ok => t.tick
  | .perStep, .waiting => t
  | .perStep, .fault _ _ => t
  | .decoupled, _ => t

/-- `tone_fired`, the result of the `Tick()` that the TIMER phase performs (R174, R175, R176): the tick is the one of `timerPhase`,
on the state the instruction left. Where no tick is performed nothing fires. -/
def timerTone (p : Config.TimerPolicy) (outcome : Report) (t : State) : Bool :=
  match p, outcome with
  | .perStep, .ok => t.toneFired
  | .perStep, .waiting => false
  | .perStep, .fault _ _ => false
  | .decoupled, _ => false

/-- EXECUTE, then TIMER (R36). -/
def executePhase (p : Config.TimerPolicy) (i : Instr) (s : State) : Result :=
  match exec i s with
  | .next t => .next (timerPhase p (reportOf i s t) t)
  | .fault r => .fault r
  | .refused r => .refused r

/-- DECODE (R36): an illegal word raises UnknownOpcode, naming the raw opcode (R161). -/
def decodePhase (p : Config.TimerPolicy) (op : Word) (s : State) : Result :=
  match decode op with
  | .ok i => executePhase p i s
  | .error _ => raise .unknownOpcode op s

/-- FETCH (R36, R53): a pc above 0xFFE raises AddressFault_fetch (R164). -/
def fetchPhase (p : Config.TimerPolicy) (s : State) : Result :=
  match s.fetch with
  | some op => decodePhase p op s
  | none => raise .addressFaultFetch s.pc s

/-- `Step`: a halted core changes nothing (R38); a running one goes once around from FETCH (R36). -/
def cycle (p : Config.TimerPolicy) (s : State) : Result :=
  if s.status.halted then .next s else fetchPhase p s

/-- The instruction at pc, when there is one to run: the core is not halted, the fetch succeeds and the word is legal. -/
def State.current (s : State) : Option Instr :=
  if s.status.halted then none
  else
    match s.fetch with
    | none => none
    | some op => decodeInstr op

/-- The outcome that a step from s returns (R37). -/
def stepReport (p : Config.TimerPolicy) (s : State) : Report :=
  match cycle p s with
  | .next t =>
    if t.status.halted then .fault t.status.cause t.status.info
    else if s.current.any fun i => Instr.waits i s then .waiting
    else .ok
  | .fault _ => .ok
  | .refused _ => .ok

/-- The `tone_fired` of the tick inside the step from s (R176): none under `decoupled`, whose steps perform no tick, and none in a
step that does not get to the TIMER phase. -/
def stepTone (p : Config.TimerPolicy) (s : State) : Bool :=
  match s.current with
  | none => false
  | some i =>
    match exec i s with
    | .next t => timerTone p (reportOf i s t) t
    | .fault _ => false
    | .refused _ => false

/-- The word that `withFetchWord` lays down: the word of a table row, its bits numbered as the table numbers them. -/
def fetchWordOf (nbits w : Nat) : Word := (tableWord nbits w).getD (BitVec.ofNat 16 w)

/-- The state with a word placed where the next step fetches (R53, R70): the word's bytes at pc and pc + 1, high byte first.
The fetch needs a core that is not halted and a pc of at most 0xFFE; where that is not so already, `status` is cleared and
pc is 0x200 (log entry 7). -/
def State.placeWord (s : State) (op : Word) : State :=
  let pc := if s.pc.toNat ≤ 0xFFE then s.pc else BitVec.ofNat 16 Config.progBase
  { s with
    mem := s.mem.writeBytes pc.toNat [highByte op, lowByte op]
    pc := pc
    status := if s.status.halted then Status.running else s.status }

end Sys2Proof.Machine
end

