-- ==== Sys2Proof/Machine/Step.lean ====
section
/-! DEFINITION. The event `Step` of 10_state.md R36 under this hardware's timer policy. The other events stand in
Events.lean. -/

namespace Sys2Proof.Machine

/-- One step (R36): "one invocation performs exactly one instruction". -/
def step (s : State) : Host.Outcome State Fault Refusal := cycle Config.timerPolicy s

/-- The state in which the next step fetches and runs the word w (log entry 7). -/
def State.withFetchWord (s : State) (nbits w : Nat) : State := s.placeWord (fetchWordOf nbits w)

end Sys2Proof.Machine
end

