-- ==== Sys2Proof/Machine/Events.lean ====
section
/-! DEFINITION. The events of 10_state.md R35 and the transactions of R39: reset, the ROM loader's writes, the input
source's writes, the step with its random byte, the tick, and what the host reads. The order of events is the driver's: a
run is any sequence of them that the boot order (70_reset_and_hazards.md R192, R206) admits. -/

namespace Sys2Proof.Machine

/-- The events that change the state (R35, R39). -/
inductive Event where
  /-- `Reset` -/
  | reset
  /-- `HostWriteMem(0x200 + offset, v)`: the loader writes only 0x200 to 0xFFF (R193) -/
  | hostWriteMem (offset : Fin 3584) (v : Byte)
  /-- `HostSetKeys(k)` -/
  | hostSetKeys (k : Keys)
  /-- `Step(rnd)` -/
  | step (rnd : Byte)
  /-- `Tick` -/
  | tick
deriving DecidableEq, Repr

/-- `Reset`: every piece of the core's state takes its reset value (R40, R190). The count of free random bytes is no state of
the core and goes on, so that draws stay fresh across a reset (log entry 2). -/
def State.resetEvent (s : State) : State := { State.reset with draws := s.draws }

/-- `HostWriteMem(0x200 + offset, v)` (R39, R193). -/
def State.hostWrite (s : State) (offset : Fin 3584) (v : Byte) : State :=
  { s with mem := s.mem.write (Config.progBase + offset.val) v }

/-- `HostSetKeys(k)`: all 16 latches (R39). -/
def State.setKeys (s : State) (k : Keys) : State := { s with key := k }

/-- The driver puts a byte on the input `rnd`. -/
def State.supplyRnd (s : State) (r : Byte) : State := { s with rndIn := some r }

/-- The input `rnd` is of one step only: what the step did not read is gone. -/
def State.dropRnd (s : State) : State := { s with rndIn := none }

/-- `Step(rnd)` (R36). -/
def stepRnd (p : Config.TimerPolicy) (r : Byte) (s : State) : Result :=
  match cycle p (s.supplyRnd r) with
  | .next t => .next t.dropRnd
  | .fault f => .fault f
  | .refused f => .refused f

/-- The effect of one event, each atomic (R35). A tick goes on in a halted core (R177). -/
def react (p : Config.TimerPolicy) (e : Event) (s : State) : Result :=
  match e with
  | .reset => .next s.resetEvent
  | .hostWriteMem offset v => .next (s.hostWrite offset v)
  | .hostSetKeys k => .next (s.setKeys k)
  | .step r => stepRnd p r s
  | .tick => .next s.tick

/-- What an event gives back to the driver (R39). -/
inductive Output where
  | none
  /-- the outcome of a step (R37), and the `tone_fired` of the tick inside it. Under `decoupled` there is no such tick and the
  second is always false. Under `per_step` there is one (R176) and no `Tick` event to return its result, and the spec does
  not say how it reaches the host: that the step returns it beside its outcome is the model's choice, DESIGN CHOICE, log
  entry 23 -/
  | outcome (r : Report) (toneFired : Bool)
  /-- `tone_fired` (R174) -/
  | toneFired (fired : Bool)
deriving DecidableEq, Repr

/-- The output of an event that comes in state s (R37, R39, R174). That a step under `per_step` also returns the `tone_fired` of its
own tick is the model's choice (log entry 23). -/
def output (p : Config.TimerPolicy) (e : Event) (s : State) : Output :=
  match e with
  | .reset => .none
  | .hostWriteMem _ _ => .none
  | .hostSetKeys _ => .none
  | .step r => .outcome (stepReport p (s.supplyRnd r)) (stepTone p (s.supplyRnd r))
  | .tick => .toneFired s.toneFired

/-- A sequence of events, one after the other (R35). -/
def runEvents (p : Config.TimerPolicy) : List Event → State → Result
  | [], s => .next s
  | e :: es, s =>
    match react p e s with
    | .next t => runEvents p es t
    | .fault f => .fault f
    | .refused f => .refused f

/-- The tick that `per_step` performs inside an event, as an event of its own: one in a step whose outcome is `Ok`, none elsewhere
(R176). -/
def tickAfter (e : Event) (s : State) : List Event :=
  match e with
  | .step r => if stepReport .perStep (s.supplyRnd r) = .ok then [.tick] else []
  | .reset => []
  | .hostWriteMem _ _ => []
  | .hostSetKeys _ => []
  | .tick => []

/-- The events of a run under `per_step` with its ticks written out: "one tick after each completed step, none elsewhere"
(R176). -/
def withTicks : List Event → State → List Event
  | [], _ => []
  | e :: es, s =>
    match react .perStep e s with
    | .next t => e :: (tickAfter e s ++ withTicks es t)
    | .fault _ => e :: es
    | .refused _ => e :: es

/-- Where a run stands in the boot order (R192). -/
inductive Phase where
  /-- before the first `Reset` -/
  | off
  /-- after `Reset`, before the first step: the loader may write -/
  | loading
  /-- after the first step -/
  | started
deriving DecidableEq, Repr

/-- The boot order: the phase after an event, none when the host may not issue the event there (R39, R192, R206). Under
`per_step` "the separate `Tick` event does not exist" (R176). -/
def Phase.allow (p : Config.TimerPolicy) (ph : Phase) (e : Event) : Option Phase :=
  match ph, e with
  | _, .reset => some .loading
  | .loading, .hostWriteMem _ _ => some .loading
  | .loading, .step _ => some .started
  | .started, .step _ => some .started
  | .loading, .hostSetKeys _ => some .loading
  | .started, .hostSetKeys _ => some .started
  | .loading, .tick => if p = .decoupled then some .loading else none
  | .started, .tick => if p = .decoupled then some .started else none
  | .started, .hostWriteMem _ _ => none
  | .off, .hostWriteMem _ _ => none
  | .off, .step _ => none
  | .off, .hostSetKeys _ => none
  | .off, .tick => none

/-- The sequences of events a host may produce from a phase on (R206). -/
def admissible (p : Config.TimerPolicy) : Phase → List Event → Bool
  | _, [] => true
  | ph, e :: es =>
    match ph.allow p e with
    | some ph' => admissible p ph' es
    | none => false

/-- The ROM loader's writes, byte i at 0x200 + i (R193). -/
def loadEvents (rom : List Byte) : List Event :=
  rom.mapIdx fun k b => .hostWriteMem (Fin.ofNat 3584 k) b

/-- The launch state of R193, "memory after reset, with `Mem[0x200 + i] = b[i]`"; none for a ROM longer than 3584 bytes, which
the loader rejects (RomTooLarge, R167). -/
def launch (rom : List Byte) : Option State :=
  if rom.length ≤ Config.romMax then
    some { State.reset with mem := State.reset.mem.writeBytes Config.progBase rom }
  else none

/-- The framebuffer as the renderer reads it: one byte of value 0 or 1 for each pixel, index `py*64 + px` (R29, D19). -/
def State.frameBytes (s : State) : List Byte := s.fb.toList.flatMap fun row => row.toList.map flagByte

/-- `status` as the host reads it: `halted` (1 bit), `cause` (3 bits), `info` (16 bits) (R32, R39). -/
def State.readStatus (s : State) : BitVec 1 × BitVec 3 × Word :=
  (BitVec.ofBool s.status.halted, s.status.cause.code, s.status.info)

end Sys2Proof.Machine
end

