-- ==== Sys2Proof/Safety.lean ====
section
/-! DEFINITION. The terms in which claims speak of runs: the invariant of the machine (10_state.md R41), reachable states,
a run that has stopped and a run at rest (70_reset_and_hazards.md R205), and a safe run (60_exceptions.md R171). -/

namespace Sys2Proof.Machine

/-- "Ranges no reachable state leaves" (R41), with the canonical form of memory and the rule of R32 for `status`. That SP is at
most 16, that a pixel is 0 or 1 and that `cause` is never 7 hold by the types. -/
structure State.Inv (s : State) : Prop where
  /-- the memory keeps its canonical form -/
  memory : s.mem.wf
  /-- `pc <= 0x10FE` (R41 b) -/
  counter : s.pc.toNat ≤ 0x10FE
  /-- "every occupied stack slot holds a value `<= 0xFFE`" (R41 c) -/
  slots : ∀ k : Fin 16, k.val < s.sp.val → (s.stack.get k).toNat ≤ 0xFFE
  /-- "While `halted = 0`, `cause = 0` and `info = 0`" (R32) -/
  running : s.status.halted = false → s.status = Status.running
  /-- a halted core has a cause (R32) -/
  stopped : s.status.halted = true → s.status.cause ≠ .none

/-- The states that a host's events lead to, from any state at all and in the boot order (R41, R192). -/
def Reachable (p : Config.TimerPolicy) (s : State) : Prop :=
  ∃ (t : State) (es : List Event), admissible p .off es = true ∧ es ≠ [] ∧ runEvents p es t = .next s

/-- A run has stopped: "a failure, never a success" (R205). -/
def State.Stopped (s : State) : Prop := s.status.halted = true

/-- A run has come to rest: "a fixed point of `Step` for every `rnd` with outcome `Ok`" (R205). -/
def State.AtRest (p : Config.TimerPolicy) (s : State) : Prop :=
  ∀ r : Byte, stepRnd p r s = .next s ∧ stepReport p (s.supplyRnd r) = .ok

/-- A safe sequence of events from s: it "takes `status.halted = 0` throughout" (R171). -/
def SafeRun (p : Config.TimerPolicy) (es : List Event) (s : State) : Prop :=
  ∀ n : Nat, ∃ t, runEvents p (es.take n) s = .next t ∧ t.status.halted = false

/-! ### what an instruction writes: the words of the frame statements -/

/-- Only V and pc changed, pc by 2: VX holds the value, every other register is as before. -/
def SetsReg (s t : State) (x : RegNum) (value : Nat) : Prop :=
  (t.reg x).toNat = value ∧ (∀ r, r ≠ x → t.reg r = s.reg r) ∧ t = { s with v := t.v, pc := s.pc + 2 }

/-- Only V and pc changed, pc by 2: VX holds the value; VF holds the flag unless it is VX itself; every other register is as
before. -/
def SetsRegAndFlag (s t : State) (x : RegNum) (value flag : Nat) : Prop :=
  (t.reg x).toNat = value ∧ (x ≠ regVF → (t.reg regVF).toNat = flag) ∧
  (∀ r, r ≠ x → r ≠ regVF → t.reg r = s.reg r) ∧ t = { s with v := t.v, pc := s.pc + 2 }

/-- The sprite of DXYN has a 1 bit on the pixel (px, py): row r, column c with `(VX + c) mod 64 = px`, `(VY + r) mod 32 = py`,
bit 7 - c of the byte at I + r (R140). -/
def Covers (s : State) (x y : RegNum) (n : Nat) (px : Fin 64) (py : Fin 32) : Prop :=
  ∃ r c : Nat, r < n ∧ c < 8 ∧ (s.mem.read (s.i.toNat + r)).getLsbD (7 - c) = true ∧
    ((s.reg x).toNat + c) % 64 = px.val ∧ ((s.reg y).toNat + r) % 32 = py.val

/-- The registers an instruction may write (R43: the columns V and "VF as flag"). -/
def writesReg : Instr → RegNum → Prop
  | .ldImm x _, r | .addImm x _, r | .ldReg x _, r | .orReg x _, r | .andReg x _, r | .xorReg x _, r => r = x
  | .addReg x _, r | .subReg x _, r | .shr x _, r | .subnReg x _, r | .shl x _, r => r = x ∨ r = regVF
  | .rnd x _, r | .ldVxDt x, r | .ldVxK x, r => r = x
  | .drw _ _ _, r => r = regVF
  | .loadRegs x, r => r ≤ x
  | .cls, _ | .ret, _ | .jp _, _ | .call _, _ | .seImm _ _, _ | .sneImm _ _, _ | .seReg _ _, _ | .sneReg _ _, _ => False
  | .ldI _, _ | .jpV0 _, _ | .skp _, _ | .sknp _, _ | .ldDtVx _, _ | .ldStVx _, _ | .addI _, _ | .ldF _, _ => False
  | .ldB _, _ | .storeRegs _, _ => False

/-- The addresses an instruction stores to: FX33 the three bytes from I, FX55 the x + 1 bytes from I (R43, R54). -/
def storesAt (s : State) : Instr → Nat → Prop
  | .ldB _, a => s.address 0 ≤ a ∧ a < s.address 3
  | .storeRegs x, a => s.address 0 ≤ a ∧ a < s.address (x.val + 1)
  | .cls, _ | .ret, _ | .jp _, _ | .call _, _ | .seImm _ _, _ | .sneImm _ _, _ | .seReg _ _, _ | .sneReg _ _, _ => False
  | .ldImm _ _, _ | .addImm _ _, _ | .ldReg _ _, _ | .orReg _ _, _ | .andReg _ _, _ | .xorReg _ _, _ => False
  | .addReg _ _, _ | .subReg _ _, _ | .shr _ _, _ | .subnReg _ _, _ | .shl _ _, _ => False
  | .ldI _, _ | .jpV0 _, _ | .rnd _ _, _ | .drw _ _ _, _ | .skp _, _ | .sknp _, _ | .ldVxDt _, _ | .ldVxK _, _ => False
  | .ldDtVx _, _ | .ldStVx _, _ | .addI _, _ | .ldF _, _ | .loadRegs _, _ => False

/-- The instructions that write I (R23, R43). -/
def writesI (i : Instr) : Prop := (∃ nnn, i = .ldI nnn) ∨ (∃ x, i = .addI x) ∨ ∃ x, i = .ldF x

/-- The instructions that write the call stack or SP (R26, R43). -/
def writesStack (i : Instr) : Prop := i = .ret ∨ ∃ nnn, i = .call nnn

/-- The instructions that write the framebuffer (R29, R43). -/
def writesFrame (i : Instr) : Prop := i = .cls ∨ ∃ x y n, i = .drw x y n

/-- The instructions that read the key latches (R30, R43). -/
def readsKeys (i : Instr) : Prop := (∃ x, i = .skp x) ∨ (∃ x, i = .sknp x) ∨ ∃ x, i = .ldVxK x

/-- The words R76 lists as illegal, class by class. -/
def illegalByClass (op : Word) : Prop :=
  ((fieldClass op).toNat = 0x0 ∧ op ≠ 0x00E0 ∧ op ≠ 0x00EE) ∨
  ((fieldClass op).toNat = 0x5 ∧ fieldN op ≠ 0) ∨
  ((fieldClass op).toNat = 0x8 ∧ (fieldN op).toNat ∈ [0x8, 0x9, 0xA, 0xB, 0xC, 0xD, 0xF]) ∨
  ((fieldClass op).toNat = 0x9 ∧ fieldN op ≠ 0) ∨
  ((fieldClass op).toNat = 0xE ∧ (fieldNN op).toNat ∉ [0x9E, 0xA1]) ∨
  ((fieldClass op).toNat = 0xF ∧ (fieldNN op).toNat ∉ [0x07, 0x0A, 0x15, 0x18, 0x1E, 0x29, 0x33, 0x55, 0x65])

/-- `v` ticks, one after the other (R174). -/
def State.ticks : Nat → State → State
  | 0, s => s
  | k + 1, s => State.ticks k s.tick

end Sys2Proof.Machine
end

