-- ==== Sys2Proof/Certificates/Slice0/Obligations.lean ====
section
/-! DEFINITION. The statements for the provers, in the order of the spec: encoding, the step, control transfer, skips,
arithmetic, index and memory, display, timers and keys, fatal conditions, events and reset, and the rules of the whole
machine. Where a statement rests on a decision of the spec itself (`92_eei_decisions.md`, D<n>) or on a choice of the model
(log entry <n>), its docstring says so. -/

open Sys2Proof Sys2Proof.Machine

/-! ### Encoding -/

/-- Words written out from the formats of R72 and the rows of R75 decode to the instructions they stand for: one word at
least of every format and family. -/
def Obligations.WrittenWordsDecode : Prop :=
  decode 0x00E0 = .ok .cls ∧ decode 0x00EE = .ok .ret ∧ decode 0x1204 = .ok (.jp 0x204) ∧
  decode 0x3100 = .ok (.seImm 1 0x00) ∧ decode 0x632A = .ok (.ldImm 3 0x2A) ∧ decode 0x8014 = .ok (.addReg 0 1) ∧
  decode 0xD125 = .ok (.drw 1 2 5) ∧ decode 0xE39E = .ok (.skp 3) ∧ decode 0xF10A = .ok (.ldVxK 1) ∧
  decode 0xFA65 = .ok (.loadRegs 10) ∧ decode 0x0000 = .error (.unknownOpcode 0x0000)

/-- R71: the six fields are the masked and shifted parts of the word that the document gives, for every word, and they
overlap as `nn = y * 16 + n` and `nnn = x * 256 + nn`. -/
def Obligations.FieldsAreMaskedAndShifted : Prop :=
  ∀ op : Word,
    (fieldClass op).toNat * 0x1000 = (op &&& 0xF000).toNat ∧
    (fieldX op).val = ((op &&& 0x0F00) >>> 8).toNat ∧
    (fieldY op).val = ((op &&& 0x00F0) >>> 4).toNat ∧
    (fieldN op).toNat = (op &&& 0x000F).toNat ∧
    (fieldNN op).toNat = (op &&& 0x00FF).toNat ∧
    (fieldNNN op).toNat = (op &&& 0x0FFF).toNat ∧
    (fieldNN op).toNat = (fieldY op).val * 16 + (fieldN op).toNat ∧
    (fieldNNN op).toNat = (fieldX op).val * 256 + (fieldNN op).toNat

/-- Decoding the word of an instruction gives the instruction back, for all 34 and every operand (R72, R74); so does decoding
its bytes, which leaves the bytes behind it, and so does the table's numbering of its bits. -/
def Obligations.DecodeOfEncode : Prop :=
  ∀ (i : Instr) (rest : List Byte),
    decode (encode i) = .ok i ∧ decodeBytes (encodeBytes i ++ rest) = .ok (i, rest) ∧
    decodeTableWord 16 (encode i).toNat = some i

/-- The other direction: a word that decodes is the word of the instruction it decodes to, so no two words mean the same
instruction and no bit of a word is dropped (the ignored y of SHR and SHL is an operand, R77). -/
def Obligations.EncodeOfDecode : Prop :=
  ∀ (op : Word) (i : Instr), decode op = .ok i → encode i = op

/-- R75: for every row of the opcode map and every word, the word under the row's mask equals the row's match exactly when it
decodes to the row's instruction. -/
def Obligations.OpcodeMapIsTheDecoder : Prop :=
  ∀ (op : Word) (r : OpcodeRow), r ∈ opcodeMap →
    (r.covers op = true ↔ ∃ i, decode op = .ok i ∧ i.mnemonic = r.mnemonic)

/-- A word is rejected, under its own name, exactly when it is in one of the classes of illegal words that R76 lists, and
exactly when no row of the opcode map covers it. -/
def Obligations.IllegalWordsByClass : Prop :=
  ∀ op : Word,
    (decode op = .error (.unknownOpcode op) ↔ illegalByClass op) ∧ (illegalByClass op ↔ wellFormedWord op = false)

/-! ### The step -/

/-- When the two bytes at pc, the one at the lower address high, decode to an instruction, a step of a running core is that
instruction's meaning at this state, with nothing around it (R36, R53). -/
def Obligations.StepRunsDecodedInstruction : Prop :=
  ∀ (s : State) (i : Instr), s.status.halted = false → s.pc.toNat ≤ 0xFFE →
    decode (wordOfBytes (s.mem.read s.pc.toNat) (s.mem.read (s.pc.toNat + 1))) = .ok i → step s = exec i s

/-- The word of any instruction placed where the next step fetches is what that step runs, from any state (R53, R70; log
entry 7 for `withFetchWord`). From a running core with a fetchable pc nothing but memory has changed. -/
def Obligations.PlacedWordRuns : Prop :=
  ∀ (s : State) (i : Instr),
    step (s.withFetchWord 16 (encode i).toNat) = exec i (s.withFetchWord 16 (encode i).toNat) ∧
    (s.status.halted = false → s.pc.toNat ≤ 0xFFE →
      s.withFetchWord 16 (encode i).toNat = { s with mem := (s.withFetchWord 16 (encode i).toNat).mem })

/-- A step of a halted core changes no state and returns the same condition again, under both timer policies (R38, by the
spec's decision D4). -/
def Obligations.HaltedStepChangesNothing : Prop :=
  ∀ (p : Config.TimerPolicy) (s : State), s.status.halted = true →
    cycle p s = .next s ∧ stepReport p s = .fault s.status.cause s.status.info

/-- A pc above 0xFFE cannot be fetched from: the step records `AddressFault_fetch` with `info = pc` and changes nothing else
(R53, R164; the status register is decision D2, the precision D3). -/
def Obligations.FetchOutsideMemoryHalts : Prop :=
  ∀ (p : Config.TimerPolicy) (s : State), s.status.halted = false → 0xFFE < s.pc.toNat →
    cycle p s = .next { s with status := { halted := true, cause := .addressFaultFetch, info := s.pc } } ∧
    stepReport p s = .fault .addressFaultFetch s.pc

/-- An illegal word at pc: the step records UnknownOpcode with the raw word and changes nothing else (R161; decisions D2,
D3). -/
def Obligations.IllegalWordHalts : Prop :=
  ∀ (p : Config.TimerPolicy) (s : State) (op : Word), s.status.halted = false → s.pc.toNat ≤ 0xFFE →
    op = wordOfBytes (s.mem.read s.pc.toNat) (s.mem.read (s.pc.toNat + 1)) → illegalByClass op →
    cycle p s = .next { s with status := { halted := true, cause := .unknownOpcode, info := op } } ∧
    stepReport p s = .fault .unknownOpcode op

/-- Every step of every state goes to a next state: no fault, no refusal, under both timer policies. R37 gives a step the outcome
`Fault(cause, info)` where a fatal condition is raised; that such a step is a next state of the model, with the condition in
`status`, and that the model has no fault of its own is the model's choice (log entry 5, DESIGN CHOICE). -/
def Obligations.EveryStepAnswersNext : Prop :=
  ∀ (p : Config.TimerPolicy) (s : State), ∃ t, cycle p s = .next t

/-- The outcome `Waiting` (R37): the step returned it exactly when the instruction at pc is FX0A and no latch is set, and then
it changed no state at all. -/
def Obligations.WaitingStepChangesNothing : Prop :=
  ∀ (p : Config.TimerPolicy) (s : State),
    (stepReport p s = .waiting ↔ (∃ x, s.current = some (.ldVxK x)) ∧ ∀ k, s.key.get k = false) ∧
    (stepReport p s = .waiting → cycle p s = .next s)

/-- Under the policy `per_step` a step is the instruction, and then one tick when its outcome is `Ok`; a step that waits or
raises performs none (R176). -/
def Obligations.PerStepTicksAfterOk : Prop :=
  ∀ (s t : State) (i : Instr), s.current = some i → exec i s = .next t →
    cycle .perStep s = .next (if stepReport .perStep s = .ok then t.tick else t) ∧ cycle .decoupled s = .next t

/-! ### Control transfer -/

/-- R92, R94: `JP nnn`, the words of class 1, and `JP V0, nnn`, those of class B, load pc with nnn and with nnn + V0, a sum that is
not reduced modulo 4096, whatever the target is, and change nothing else. Only the next fetch meets a target above 0xFFE. -/
def Obligations.JumpResults : Prop :=
  ∀ (nnn : Addr) (s : State),
    decode (formatA 0x1 nnn) = .ok (.jp nnn) ∧ decode (formatA 0xB nnn) = .ok (.jpV0 nnn) ∧
    (∃ t, exec (.jp nnn) s = .next t ∧ t.pc.toNat = nnn.toNat ∧ t = { s with pc := t.pc } ∧
      (t.fetch = none ↔ 0xFFE < nnn.toNat)) ∧
    (∃ t, exec (.jpV0 nnn) s = .next t ∧ t.pc.toNat = nnn.toNat + (s.reg 0).toNat ∧ t = { s with pc := t.pc } ∧
      (t.fetch = none ↔ 0xFFE < nnn.toNat + (s.reg 0).toNat))

/-- `CALL nnn` with a free slot: the address of the call itself is pushed, SP counts up, pc is nnn, and nothing else changes,
the other slots included (R93). -/
def Obligations.CallPushesItsAddress : Prop :=
  ∀ (nnn : Addr) (s : State), s.sp.val < 16 →
    ∃ t, exec (.call nnn) s = .next t ∧ t.sp.val = s.sp.val + 1 ∧ t.pc.toNat = nnn.toNat ∧
      (∀ k : Fin 16, t.stack.get k = if k.val = s.sp.val then s.pc else s.stack.get k) ∧
      t = { s with stack := t.stack, sp := t.sp, pc := t.pc }

/-- `RET` with an occupied slot: SP counts down, pc is the popped value plus 2 (at 16 bits, D7), and nothing else changes: the
popped slot keeps its value (R91; that it keeps it is decision D18). -/
def Obligations.ReturnPops : Prop :=
  ∀ (s : State), 0 < s.sp.val →
    ∃ (t : State) (k : Fin 16), exec .ret s = .next t ∧ k.val + 1 = s.sp.val ∧ t.sp.val = k.val ∧
      t.pc.toNat = ((s.stack.get k).toNat + 2) % 65536 ∧ t = { s with sp := t.sp, pc := t.pc }

/-- A call and a return at once after it: pc is two past the call, SP is as before the call, and only the slot that was used
may differ (R90). -/
def Obligations.CallThenReturn : Prop :=
  ∀ (nnn : Addr) (s : State), s.sp.val < 16 →
    ∃ t u, exec (.call nnn) s = .next t ∧ exec .ret t = .next u ∧ u.pc.toNat = (s.pc.toNat + 2) % 65536 ∧
      (∀ k : Fin 16, k.val ≠ s.sp.val → u.stack.get k = s.stack.get k) ∧
      u = { s with stack := u.stack, pc := u.pc }

/-- A 17th call and a return with no call outstanding halt the core with StackOverflow and StackUnderflow, `info` being the
opcode, and change nothing else (R162, R163; decisions D2, D3). -/
def Obligations.StackLimitsHalt : Prop :=
  ∀ (nnn : Addr) (s : State),
    (s.sp.val = 16 → exec (.call nnn) s =
      .next { s with status := { halted := true, cause := .stackOverflow, info := encode (.call nnn) } }) ∧
    (s.sp.val = 0 → exec .ret s =
      .next { s with status := { halted := true, cause := .stackUnderflow, info := 0x00EE } })

/-! ### Skips -/

/-- R101 to R104: the four comparing skips, of classes 3, 4, 5 and 9, add 4 to pc when the condition holds and 2 when it does not
(at 16 bits), and change nothing else; in classes 5 and 9 a word with n != 0 is illegal. -/
def Obligations.SkipResults : Prop :=
  ∀ (x y : RegNum) (nn : Byte) (s : State),
    (decode (formatXK 0x3 x nn) = .ok (.seImm x nn) ∧
      exec (.seImm x nn) s = .next { s with pc := if s.reg x = nn then s.pc + 4 else s.pc + 2 }) ∧
    (decode (formatXK 0x4 x nn) = .ok (.sneImm x nn) ∧
      exec (.sneImm x nn) s = .next { s with pc := if s.reg x = nn then s.pc + 2 else s.pc + 4 }) ∧
    (decode (formatXYN 0x5 x y 0) = .ok (.seReg x y) ∧
      exec (.seReg x y) s = .next { s with pc := if s.reg x = s.reg y then s.pc + 4 else s.pc + 2 }) ∧
    (decode (formatXYN 0x9 x y 0) = .ok (.sneReg x y) ∧
      exec (.sneReg x y) s = .next { s with pc := if s.reg x = s.reg y then s.pc + 2 else s.pc + 4 }) ∧
    ∀ n : Nibble, n ≠ 0 →
      decode (formatXYN 0x5 x y n) = .error (.unknownOpcode (formatXYN 0x5 x y n)) ∧
      decode (formatXYN 0x9 x y n) = .error (.unknownOpcode (formatXYN 0x9 x y n))

/-- EX9E and EXA1 with VX in 0 to 0xF: they skip on the latch VX names being set, and not set, and change nothing but pc: the
latch is not cleared (R105, R106). -/
def Obligations.KeySkipResults : Prop :=
  ∀ (x : RegNum) (k : Fin 16) (s : State), (s.reg x).toNat = k.val →
    exec (.skp x) s = .next { s with pc := if s.key.get k = true then s.pc + 4 else s.pc + 2 } ∧
    exec (.sknp x) s = .next { s with pc := if s.key.get k = true then s.pc + 2 else s.pc + 4 }

/-- EX9E and EXA1 with VX above 0xF halt the core with KeyIndexFault, `info` being the opcode; the index is not masked (R105,
R106, R166: the spec's decision D8; D2, D3). -/
def Obligations.KeyIndexAboveFHalts : Prop :=
  ∀ (x : RegNum) (s : State), 0xF < (s.reg x).toNat →
    exec (.skp x) s = .next { s with status := { halted := true, cause := .keyIndexFault, info := encode (.skp x) } } ∧
    exec (.sknp x) s = .next { s with status := { halted := true, cause := .keyIndexFault, info := encode (.sknp x) } }

/-! ### Arithmetic -/

/-- R111 to R116: load, add immediate (modulo 256, no flag), copy and the three logic instructions, of classes 6, 7 and 8. VX
receives the result, no other register changes (VF only where it is VX), and nothing but V and pc changes. -/
def Obligations.LoadAndLogicResults : Prop :=
  ∀ (x y : RegNum) (nn : Byte) (s : State),
    (decode (formatXK 0x6 x nn) = .ok (.ldImm x nn) ∧ ∃ t, exec (.ldImm x nn) s = .next t ∧ SetsReg s t x nn.toNat) ∧
    (decode (formatXK 0x7 x nn) = .ok (.addImm x nn) ∧
      ∃ t, exec (.addImm x nn) s = .next t ∧ SetsReg s t x (((s.reg x).toNat + nn.toNat) % 256)) ∧
    (decode (formatXYN 0x8 x y 0x0) = .ok (.ldReg x y) ∧
      ∃ t, exec (.ldReg x y) s = .next t ∧ SetsReg s t x (s.reg y).toNat) ∧
    (decode (formatXYN 0x8 x y 0x1) = .ok (.orReg x y) ∧
      ∃ t, exec (.orReg x y) s = .next t ∧ SetsReg s t x ((s.reg x).toNat ||| (s.reg y).toNat)) ∧
    (decode (formatXYN 0x8 x y 0x2) = .ok (.andReg x y) ∧
      ∃ t, exec (.andReg x y) s = .next t ∧ SetsReg s t x ((s.reg x).toNat &&& (s.reg y).toNat)) ∧
    (decode (formatXYN 0x8 x y 0x3) = .ok (.xorReg x y) ∧
      ∃ t, exec (.xorReg x y) s = .next t ∧ SetsReg s t x ((s.reg x).toNat ^^^ (s.reg y).toNat))

/-- 8XY4 to 8XY7 and 8XYE: VX receives the result modulo 256 and VF the carry, the absence of a borrow or the bit shifted out
(R117 to R121). The operands are those before the instruction; with x = 0xF the result replaces the flag. For x or y equal
to 0xF that is the spec's decision D11 (log entry 11). -/
def Obligations.FlagArithmeticResults : Prop :=
  ∀ (x y : RegNum) (s : State),
    (∃ t, exec (.addReg x y) s = .next t ∧ SetsRegAndFlag s t x (((s.reg x).toNat + (s.reg y).toNat) % 256)
      (if (s.reg x).toNat + (s.reg y).toNat > 255 then 1 else 0)) ∧
    (∃ t, exec (.subReg x y) s = .next t ∧ SetsRegAndFlag s t x (((s.reg x).toNat + 256 - (s.reg y).toNat) % 256)
      (if (s.reg x).toNat ≥ (s.reg y).toNat then 1 else 0)) ∧
    (∃ t, exec (.subnReg x y) s = .next t ∧ SetsRegAndFlag s t x (((s.reg y).toNat + 256 - (s.reg x).toNat) % 256)
      (if (s.reg y).toNat ≥ (s.reg x).toNat then 1 else 0)) ∧
    (∃ t, exec (.shr x y) s = .next t ∧ SetsRegAndFlag s t x ((s.reg x).toNat / 2) ((s.reg x).toNat % 2)) ∧
    (∃ t, exec (.shl x y) s = .next t ∧ SetsRegAndFlag s t x ((s.reg x).toNat * 2 % 256) ((s.reg x).toNat / 128))

/-! ### Index register and memory -/

/-- R131, R133: `LD I, nnn`, the words of class A, and `LD F, Vx`, those of class F with nn = 0x29, write I with nnn and with
VX * 5, the whole 8-bit VX being used, and change nothing else but pc. -/
def Obligations.IndexLoadResults : Prop :=
  ∀ (nnn : Addr) (x : RegNum) (s : State),
    (decode (formatA 0xA nnn) = .ok (.ldI nnn) ∧
      ∃ t, exec (.ldI nnn) s = .next t ∧ t.i.toNat = nnn.toNat ∧ t = { s with i := t.i, pc := s.pc + 2 }) ∧
    (decode (formatXK 0xF x 0x29) = .ok (.ldF x) ∧
      ∃ t, exec (.ldF x) s = .next t ∧ t.i.toNat = (s.reg x).toNat * 5 ∧ t = { s with i := t.i, pc := s.pc + 2 })

/-- `ADD I, Vx`: I becomes (I + VX) mod 65536, with no mask to 12 bits, and no flag is written (R132; the modulus is the spec's
decision D6). -/
def Obligations.IndexAddResult : Prop :=
  ∀ (x : RegNum) (s : State),
    ∃ t, exec (.addI x) s = .next t ∧ t.i.toNat = (s.i.toNat + (s.reg x).toNat) % 65536 ∧
      t = { s with i := t.i, pc := s.pc + 2 }

/-- `LD B, Vx` with I + 2 inside memory: the bytes at I, I + 1 and I + 2 are the hundreds, tens and ones of VX, every other byte
of memory is as before, and nothing but memory and pc changes (R134). -/
def Obligations.DecimalStoreResult : Prop :=
  ∀ (x : RegNum) (s : State), s.i.toNat + 2 ≤ 0xFFF →
    ∃ t, exec (.ldB x) s = .next t ∧
      (t.mem.read (s.address 0)).toNat = (s.reg x).toNat / 100 ∧
      (t.mem.read (s.address 1)).toNat = (s.reg x).toNat / 10 % 10 ∧
      (t.mem.read (s.address 2)).toNat = (s.reg x).toNat % 10 ∧
      (∀ a, a < s.address 0 ∨ s.address 2 < a → t.mem.read a = s.mem.read a) ∧
      t = { s with mem := t.mem, pc := s.pc + 2 }

/-- `LD [I], Vx` with I + x inside memory: V0 to VX stand at I to I + x, every other byte of memory is as before, and nothing but
memory and pc changes: I is not advanced (R135). -/
def Obligations.RegisterStoreResult : Prop :=
  ∀ (x : RegNum) (s : State), s.i.toNat + x.val ≤ 0xFFF →
    ∃ t, exec (.storeRegs x) s = .next t ∧
      (∀ k : RegNum, k ≤ x → t.mem.read (s.address k.val) = s.reg k) ∧
      (∀ a, a < s.address 0 ∨ s.address x.val < a → t.mem.read a = s.mem.read a) ∧
      t = { s with mem := t.mem, pc := s.pc + 2 }

/-- `LD Vx, [I]` with I + x inside memory: V0 to VX receive the bytes at I to I + x, the registers above x keep their values, and
nothing but V and pc changes: memory and I are as before (R136). -/
def Obligations.RegisterLoadResult : Prop :=
  ∀ (x : RegNum) (s : State), s.i.toNat + x.val ≤ 0xFFF →
    ∃ t, exec (.loadRegs x) s = .next t ∧
      (∀ k : RegNum, t.reg k = if k ≤ x then s.mem.read (s.address k.val) else s.reg k) ∧
      t = { s with v := t.v, pc := s.pc + 2 }

/-- An access whose highest address is above 0xFFF halts the core with `AddressFault_data`, `info` being I, before anything is
written: FX33, FX55, FX65, and DXYN with n >= 1 (R63, R165: the spec's decisions D5 and D3; D2). -/
def Obligations.AccessBeyondMemoryHalts : Prop :=
  ∀ (x y : RegNum) (n : Nibble) (s u : State),
    u = { s with status := { halted := true, cause := .addressFaultData, info := s.i } } →
    (0xFFF < s.i.toNat + 2 → exec (.ldB x) s = .next u) ∧
    (0xFFF < s.i.toNat + x.val → exec (.storeRegs x) s = .next u ∧ exec (.loadRegs x) s = .next u) ∧
    (1 ≤ n.toNat → 0xFFF < s.i.toNat + (n.toNat - 1) → exec (.drw x y n) s = .next u)

/-- A store reaches the next fetch: when FX55 has stored two registers at the address the next instruction is fetched from, that
fetch gives the word of the two, the one at the lower address high (R60, R54). -/
def Obligations.StoredOpcodeIsFetchedNext : Prop :=
  ∀ (x k : RegNum) (s : State), s.i.toNat + x.val ≤ 0xFFF → k < x → (s.pc + 2).toNat = s.address k.val →
    ∃ t, exec (.storeRegs x) s = .next t ∧ t.fetch = some (wordOfBytes (s.reg k) (s.reg (k + 1)))

/-! ### Display -/

/-- R141: `CLS` makes every pixel 0 and changes nothing else but pc; VF is not written. -/
def Obligations.ClearScreenResult : Prop :=
  ∀ s : State, ∃ t, exec .cls s = .next t ∧ (∀ px py, t.fb.pixel px py = false) ∧ t = { s with fb := t.fb, pc := s.pc + 2 }

/-- `DRW Vx, Vy, n` with its sprite inside memory, or with n = 0 and I anywhere: a pixel is toggled exactly when a 1 bit of the
sprite lies on it, each pixel wrapped on its own; VF is 1 when such a pixel was 1 before, else 0; no other register changes,
and nothing but the framebuffer, VF and pc changes (R140, R142). Which bit of a byte is the left pixel is the spec's decision
D13 (log entry 13); that VX and VY are read before VF is written is D11. -/
def Obligations.DrawResult : Prop :=
  ∀ (x y : RegNum) (n : Nibble) (s : State), (n = 0 ∨ s.i.toNat + (n.toNat - 1) ≤ 0xFFF) →
    ∃ t, exec (.drw x y n) s = .next t ∧
      (∀ px py, t.fb.pixel px py = true ↔
        ((s.fb.pixel px py = true ∧ ¬ Covers s x y n.toNat px py) ∨ (s.fb.pixel px py = false ∧ Covers s x y n.toNat px py))) ∧
      (t.reg regVF = 0 ∨ t.reg regVF = 1) ∧
      (t.reg regVF = 1 ↔ ∃ px py, s.fb.pixel px py = true ∧ Covers s x y n.toNat px py) ∧
      (∀ r, r ≠ regVF → t.reg r = s.reg r) ∧
      t = { s with v := t.v, fb := t.fb, pc := s.pc + 2 }

/-- "drawing the same sprite at the same location twice in a row" restores the framebuffer, "and VF reflects collision on the
second draw only where pixels were set by the first" (R142 e). So on a clear framebuffer the second draw sets VF to 1 exactly
when the sprite has a 1 bit; on a framebuffer that is not clear the spec's last clause of R142 e says more than its own
pseudocode gives (log entry 21). -/
def Obligations.DrawTwiceRestores : Prop :=
  ∀ (x y : RegNum) (n : Nibble) (s t : State), exec (.drw x y n) s = .next t → t.status = s.status →
    s.status.halted = false → t.reg x = s.reg x → t.reg y = s.reg y →
    ∃ u, exec (.drw x y n) t = .next u ∧ u.fb = s.fb ∧
      (u.reg regVF = 1 ↔ ∃ px py, s.fb.pixel px py = false ∧ t.fb.pixel px py = true) ∧
      ((∀ px py, s.fb.pixel px py = false) →
        (u.reg regVF = 1 ↔ ∃ r c, r < n.toNat ∧ c < 8 ∧ (s.mem.read (s.i.toNat + r)).getLsbD c = true))

/-! ### Timers, keys, random -/

/-- CXNN: whatever byte the driver supplies on `rnd`, VX receives that byte and nn; when none is supplied the byte is free, and
VX receives some byte and nn. No other register changes, and nothing else but pc and the input itself (R151; that `rnd` is
free is the spec's decision D10, log entry 2). -/
def Obligations.RandomByteResult : Prop :=
  ∀ (x : RegNum) (nn r : Byte) (s : State),
    (∃ t, exec (.rnd x nn) (s.supplyRnd r) = .next t ∧ t.reg x = r &&& nn ∧ (∀ q, q ≠ x → t.reg q = s.reg q) ∧
      t = { s with v := t.v, pc := s.pc + 2, rndIn := none }) ∧
    (s.rndIn = none → ∃ t b, exec (.rnd x nn) s = .next t ∧ t.reg x = b &&& nn ∧ (∀ q, q ≠ x → t.reg q = s.reg q) ∧
      t = { s with v := t.v, pc := s.pc + 2, draws := s.draws + 1 })

/-- FX07 reads DT into VX (R152), FX15 writes DT (R154) and FX18 writes ST (R155) with VX, and nothing else changes but pc. After k
ticks FX07 reads DT - k, and 0 once the timer has run out; the first tick after FX15 takes DT to VX - 1. After FX18
`tone_active` is VX != 0 and the next tick fires the tone exactly when VX is 1; a step that runs FX18 fires none itself,
whatever ST was (R155, R175, under the policy `decoupled`, the spec's decision D1; for `per_step` see `StepToneResult`). -/
def Obligations.TimerInstructionResults : Prop :=
  ∀ (x : RegNum) (s : State),
    (decode (formatXK 0xF x 0x07) = .ok (.ldVxDt x) ∧
      (∃ t, exec (.ldVxDt x) s = .next t ∧ SetsReg s t x s.dt.toNat) ∧
      ∀ k, ∃ t, exec (.ldVxDt x) (State.ticks k s) = .next t ∧ SetsReg (State.ticks k s) t x (s.dt.toNat - k)) ∧
    (decode (formatXK 0xF x 0x15) = .ok (.ldDtVx x) ∧
      ∃ t, exec (.ldDtVx x) s = .next t ∧ t = { s with dt := s.reg x, pc := s.pc + 2 } ∧
        t.tick.dt.toNat = (s.reg x).toNat - 1) ∧
    (decode (formatXK 0xF x 0x18) = .ok (.ldStVx x) ∧
      ∃ t, exec (.ldStVx x) s = .next t ∧ t = { s with st := s.reg x, pc := s.pc + 2 } ∧
        (t.toneActive = true ↔ (s.reg x).toNat ≠ 0) ∧ (t.toneFired = true ↔ (s.reg x).toNat = 1)) ∧
    (∀ r, s.current = some (.ldStVx x) →
      react .decoupled (.step r) s = .next { s with st := s.reg x, pc := s.pc + 2, rndIn := none } ∧
      output .decoupled (.step r) s = .outcome .ok false)

/-- FX0A: with no latch set the step changes nothing; with a latch set VX receives the index of a pressed key, the only one when
one alone is set, and nothing else changes but pc: the latches stay set (R153; which of several keys is the parameter
`KeySelect`, decision D9, log entry 3). -/
def Obligations.KeyWaitResult : Prop :=
  ∀ (x : RegNum) (s : State),
    ((∀ k, s.key.get k = false) → exec (.ldVxK x) s = .next s) ∧
    (∀ k : RegNum, s.key.get k = true →
      ∃ (t : State) (j : RegNum), exec (.ldVxK x) s = .next t ∧ s.key.get j = true ∧ SetsReg s t x j.val ∧
        ((∀ q, s.key.get q = true → q = k) → j = k))

/-- R174: a tick takes 1 from each timer that is not 0, leaves one at 0 at 0, fires the tone exactly when ST was 1, and changes
nothing else; a timer loaded with v reaches 0 after exactly v ticks. -/
def Obligations.TickResult : Prop :=
  ∀ (p : Config.TimerPolicy) (s : State),
    (∃ t, react p .tick s = .next t ∧ t.dt.toNat = s.dt.toNat - 1 ∧ t.st.toNat = s.st.toNat - 1 ∧
      t = { s with dt := t.dt, st := t.st }) ∧
    (output p .tick s = .toneFired true ↔ s.st.toNat = 1) ∧ (output p .tick s = .toneFired false ↔ s.st.toNat ≠ 1) ∧
    (∀ k, ((State.ticks k s).dt = 0 ↔ s.dt.toNat ≤ k) ∧ ((State.ticks k s).st = 0 ↔ s.st.toNat ≤ k))

/-- From ST = v the tone is active through the first v ticks and fires at the v-th alone (R175, R174). -/
def Obligations.ToneFiresOnce : Prop :=
  ∀ (s : State) (k : Nat),
    ((State.ticks k s).toneActive = true ↔ k < s.st.toNat) ∧ ((State.ticks k s).toneFired = true ↔ k + 1 = s.st.toNat)

/-- A step never changes DT but by FX15 nor ST but by FX18 (R176, the policy `decoupled`: the spec's decision D1, log entry 4). -/
def Obligations.StepsLeaveTimersAlone : Prop :=
  ∀ s t : State, step s = .next t →
    (t.dt = s.dt ∨ ∃ x, s.current = some (.ldDtVx x) ∧ t.dt = s.reg x) ∧
    (t.st = s.st ∨ ∃ x, s.current = some (.ldStVx x) ∧ t.st = s.reg x)

/-! ### Fatal conditions -/

/-- A step that halts a running core changes nothing but `status`: no register, no byte, no pixel, not pc, not the timers, under
both timer policies (R170; the precision is the spec's decision D3). -/
def Obligations.FatalStepChangesOnlyStatus : Prop :=
  ∀ (p : Config.TimerPolicy) (s t : State), cycle p s = .next t → s.status.halted = false → t.status.halted = true →
    t = { s with status := t.status } ∧ t.status.cause ≠ .none

/-- Which instruction raises what, and when (the table of R160): an instruction that halts a running core is one of the eight
named, under its own condition, with its own cause and `info`; so the 26 others always complete (R160, R169; causes 5 and 6
are the spec's decisions D5 and D8). -/
def Obligations.OnlyNamedInstructionsRaise : Prop :=
  ∀ (i : Instr) (s t : State), exec i s = .next t → s.status.halted = false → t.status.halted = true →
    ((∃ nnn, i = .call nnn) ∧ s.sp.val = 16 ∧ t.status.cause = .stackOverflow ∧ t.status.info = encode i) ∨
    (i = .ret ∧ s.sp.val = 0 ∧ t.status.cause = .stackUnderflow ∧ t.status.info = encode i) ∨
    (((∃ x, i = .ldB x ∧ 0xFFF < s.i.toNat + 2) ∨
      (∃ x, (i = .storeRegs x ∨ i = .loadRegs x) ∧ 0xFFF < s.i.toNat + x.val) ∨
      (∃ x y n, i = .drw x y n ∧ 1 ≤ n.toNat ∧ 0xFFF < s.i.toNat + (n.toNat - 1))) ∧
      t.status.cause = .addressFaultData ∧ t.status.info = s.i) ∨
    ((∃ x, (i = .skp x ∨ i = .sknp x) ∧ 0xF < (s.reg x).toNat) ∧ t.status.cause = .keyIndexFault ∧
      t.status.info = encode i)

/-- "Only `Reset` leaves HALTED": no other event changes `status` of a halted core, and no other event but a step changes `status`
at all (R38, R171, R177; decision D4). -/
def Obligations.OnlyResetLeavesHalt : Prop :=
  ∀ (p : Config.TimerPolicy) (e : Event) (s t : State), react p e s = .next t → e ≠ .reset →
    (s.status.halted = true ∨ ∀ r, e ≠ .step r) → t.status = s.status

/-! ### Events and reset -/

/-- `Reset`, from any state: every register and slot is 0, pc is 0x200, the call stack is empty, the timers and pixels are 0, memory
holds the font at 0x000 to 0x04F and zero above, and the core is not halted (R40, R190). The font's values are the parameter
`FONT` (log entry 1); that the latches are released is decision D16 (log entry 8), that `status` is cleared D2. -/
def Obligations.ResetLeaves : Prop :=
  ∀ (p : Config.TimerPolicy) (s : State), ∃ t, react p .reset s = .next t ∧
    (∀ r, t.reg r = 0) ∧ t.i = 0 ∧ t.pc = 0x200 ∧ t.sp.val = 0 ∧ (∀ k : Fin 16, t.stack.get k = 0) ∧
    t.dt = 0 ∧ t.st = 0 ∧ t.toneActive = false ∧ (∀ px py, t.fb.pixel px py = false) ∧
    (∀ (a : Nat) (h : a < 80), t.mem.read a = Config.font[a]) ∧ (∀ a, 80 ≤ a → t.mem.read a = 0) ∧
    (∀ k : Fin 16, t.key.get k = false) ∧ t.status = { halted := false, cause := .none, info := 0 } ∧
    t = { State.reset with draws := t.draws }

/-- A step after reset with no program loaded fetches 0x0000 from 0x200 and halts with UnknownOpcode, `info = 0x0000` (R191). -/
def Obligations.NoProgramHalts : Prop :=
  step State.reset = .next { State.reset with status := { halted := true, cause := .unknownOpcode, info := 0x0000 } }

/-- The ROM load contract (R193): a ROM of at most 3584 bytes launches with byte k at 0x200 + k and every other byte at its reset
value; the loader's events give the same state after a reset, whatever came before; a longer ROM is rejected. -/
def Obligations.LaunchStateHoldsTheRom : Prop :=
  ∀ (p : Config.TimerPolicy) (rom : List Byte) (u : State),
    (rom.length ≤ 3584 → ∃ s, launch rom = some s ∧
      (∀ k (h : k < rom.length), s.mem.read (0x200 + k) = rom[k]) ∧
      (∀ a, a < 0x200 ∨ 0x200 + rom.length ≤ a → s.mem.read a = State.reset.mem.read a) ∧
      s = { State.reset with mem := s.mem } ∧
      runEvents p (.reset :: loadEvents rom) u = .next { s with draws := u.draws }) ∧
    (3584 < rom.length → launch rom = none)

/-- The host's two writes (R39): `HostWriteMem` sets one byte at 0x200 to 0xFFF, `HostSetKeys` the 16 latches, and nothing else
changes. -/
def Obligations.HostWriteResults : Prop :=
  ∀ (p : Config.TimerPolicy) (s : State) (k : Keys) (o : Fin 3584) (b : Byte),
    react p (.hostSetKeys k) s = .next { s with key := k } ∧
    ∃ t, react p (.hostWriteMem o b) s = .next t ∧
      (∀ a, t.mem.read a = if a = 0x200 + o.val then b else s.mem.read a) ∧ t = { s with mem := t.mem }

/-- The framebuffer as the renderer reads it: 2048 bytes, the pixel (px, py) at index py * 64 + px, 1 or 0 (R29; the layout is the
spec's decision D19). -/
def Obligations.RendererReadsRowMajor : Prop :=
  ∀ s : State, s.frameBytes.length = 2048 ∧
    ∀ (px : Fin 64) (py : Fin 32),
      s.frameBytes[py.val * 64 + px.val]? = some (if s.fb.pixel px py = true then (1 : Byte) else 0)

/-! ### The whole machine -/

/-- The state after reset meets the invariant of R41, and memory lists nothing. -/
def Obligations.ResetMeetsInvariant : Prop := State.reset.Inv ∧ State.reset.mem = []

/-- From every state that meets the invariant, a step under either policy leads to one that does: memory keeps its canonical form,
pc stays at or below 0x10FE, every occupied slot holds an address that could be fetched from, and `status` keeps its rule
(R41 a to e, R32). -/
def Obligations.StepKeepsInvariant : Prop :=
  ∀ (p : Config.TimerPolicy) (s t : State), s.Inv → cycle p s = .next t → t.Inv

/-- "Ranges no reachable state leaves": every state that a host's events lead to, in the boot order and in any number and
interleaving, meets the invariant, whatever state the machine was in before its first reset (R41). -/
def Obligations.ReachableStatesMeetInvariant : Prop :=
  ∀ (p : Config.TimerPolicy) (s : State), Reachable p s → s.Inv

/-- "Every behaviour of `per_step` is one particular interleaving of the `decoupled` policy (one tick after each completed step,
none elsewhere)" (R176): the events admitted under `per_step`, with one tick put in after each step whose outcome is `Ok`,
are admitted under `decoupled` and lead to the same state; taking the ticks out gives the events back. -/
def Obligations.PerStepIsAnInterleaving : Prop :=
  ∀ (ph : Phase) (es : List Event) (s : State), admissible .perStep ph es = true →
    (withTicks es s).filter (fun e => e ≠ .tick) = es ∧ admissible .decoupled ph (withTicks es s) = true ∧
    ∃ t, runEvents .perStep es s = .next t ∧ runEvents .decoupled (withTicks es s) s = .next t

/-- A state is at rest exactly when the instruction at pc is a jump to itself, `1NNN` with nnn = pc or `BNNN` with nnn + V0 = pc
(R205; the definition is the spec's decision D21). -/
def Obligations.AtRestIffSelfJump : Prop :=
  ∀ s : State, s.rndIn = none →
    (s.AtRest Config.timerPolicy ↔ ∃ nnn : Addr,
      (s.current = some (.jp nnn) ∧ nnn.toNat = s.pc.toNat) ∨
      (s.current = some (.jpV0 nnn) ∧ nnn.toNat + (s.reg 0).toNat = s.pc.toNat))

/-- The frame of all 34 instructions, by the columns w of the access matrix (R43): what an instruction's row does not mark as
written is unchanged, byte by byte in memory and pixel by pixel; the latches are never written; `status` changes only when
everything else stays (the spec's decision D3, log entry 10). -/
def Obligations.AccessMatrixFrame : Prop :=
  ∀ (i : Instr) (s t : State), exec i s = .next t →
    (∀ r, ¬ writesReg i r → t.reg r = s.reg r) ∧
    (∀ a, ¬ storesAt s i a → t.mem.read a = s.mem.read a) ∧
    (¬ writesI i → t.i = s.i) ∧
    (¬ writesStack i → t.stack = s.stack ∧ t.sp = s.sp) ∧
    (¬ writesFrame i → ∀ px py, t.fb.pixel px py = s.fb.pixel px py) ∧
    ((∀ x, i ≠ .ldDtVx x) → t.dt = s.dt) ∧
    ((∀ x, i ≠ .ldStVx x) → t.st = s.st) ∧
    ((∀ x nn, i ≠ .rnd x nn) → t.rndIn = s.rndIn ∧ t.draws = s.draws) ∧
    t.key = s.key ∧
    (t.status = s.status ∨ t = { s with status := t.status })

/-- The key latches are read by EX9E, EXA1 and FX0A alone (R30, R43): any other instruction does the same whatever is pressed. -/
def Obligations.KeysReadByKeyInstructionsOnly : Prop :=
  ∀ (i : Instr) (s t : State) (k : Keys), ¬ readsKeys i → exec i s = .next t →
    exec i { s with key := k } = .next { t with key := k }

/-- "No instruction can tell how many ticks have passed except by reading DT" (R177): any instruction but FX07 does the same to
everything but the timers whatever the timers hold. -/
def Obligations.TimersReadByFx07Only : Prop :=
  ∀ (i : Instr) (s t : State) (d e : Byte), (∀ x, i ≠ .ldVxDt x) → exec i s = .next t →
    ∃ t', exec i { s with dt := d, st := e } = .next t' ∧ { t' with dt := t.dt, st := t.st } = t

/-- What a step returns beside its state (R37, R175, R176): under `decoupled` its outcome and no `tone_fired`; under `per_step` the
same outcome, and when that is `Ok` the step ticks once, after the instruction's own writes, and the tone fires exactly when
the instruction left ST = 1. That the tone of this tick comes out of the step is the model's choice (log entry 23). -/
def Obligations.StepToneResult : Prop :=
  ∀ (r : Byte) (s : State), ∃ (t : State) (o : Report),
    react .decoupled (.step r) s = .next t ∧ output .decoupled (.step r) s = .outcome o false ∧
    (o = .ok → react .perStep (.step r) s = .next t.tick ∧
      output .perStep (.step r) s = .outcome .ok (decide (t.st.toNat = 1))) ∧
    (o ≠ .ok → react .perStep (.step r) s = .next t ∧ output .perStep (.step r) s = .outcome o false)

/-- `status` as the host reads it after a step of a running core, with the numbers of R32 and R160: each of the six conditions
gives halted 1, its own number and its `info`, and a step that does not halt gives three zeros. A halted core's step leaves
what the host reads, and the number 7 is never read. The numbers and the register are the spec's decision D2 (log entry 9),
conditions 5 and 6 its D5 and D8 (log entry 10). -/
def Obligations.StatusAsTheHostReads : Prop :=
  ∀ (p : Config.TimerPolicy) (s : State), ∃ t, cycle p s = .next t ∧ t.readStatus.2.1 ≠ 7 ∧
    (s.status.halted = true → t.readStatus = (1, s.status.cause.code, s.status.info)) ∧
    (s.status = Status.running →
      (t.status.halted = false → t.readStatus = (0, 0, 0)) ∧
      (0xFFE < s.pc.toNat → t.readStatus = (1, 4, s.pc)) ∧
      (∀ op, s.fetch = some op → illegalByClass op → t.readStatus = (1, 1, op)) ∧
      (∀ op nnn, s.fetch = some op → s.current = some (.call nnn) → s.sp.val = 16 → t.readStatus = (1, 2, op)) ∧
      (s.current = some .ret → s.sp.val = 0 → t.readStatus = (1, 3, 0x00EE)) ∧
      (∀ x, s.current = some (.ldB x) → 0xFFF < s.i.toNat + 2 → t.readStatus = (1, 5, s.i)) ∧
      (∀ x, s.current = some (.storeRegs x) ∨ s.current = some (.loadRegs x) → 0xFFF < s.i.toNat + x.val →
        t.readStatus = (1, 5, s.i)) ∧
      (∀ x y n, s.current = some (.drw x y n) → 1 ≤ n.toNat → 0xFFF < s.i.toNat + (n.toNat - 1) →
        t.readStatus = (1, 5, s.i)) ∧
      (∀ op x, s.fetch = some op → s.current = some (.skp x) ∨ s.current = some (.sknp x) → 0xF < (s.reg x).toNat →
        t.readStatus = (1, 6, op)))
end

