-- ==== Sys2Proof/Laws/Decode.lean ====
section
/-! SUPPORT. The laws of fields and formats: what each field of each format is, a word as its four nibbles, the bytes of a
word, and a mask of the opcode map applied to a word. -/

namespace Sys2Proof

theorem append_toNat {m n : Nat} (a : BitVec m) (b : BitVec n) : (a ++ b).toNat = a.toNat * 2 ^ n + b.toNat := by
  rw [BitVec.toNat_append, ← Nat.shiftLeft_add_eq_or_of_lt b.isLt, Nat.shiftLeft_eq]

/-! ### formats as numbers -/

theorem formatXYN_toNat (c : Nibble) (x y : RegNum) (n : Nibble) :
    (formatXYN c x y n).toNat = c.toNat * 4096 + x.val * 256 + y.val * 16 + n.toNat := by
  show (c ++ (BitVec.ofFin x : Nibble) ++ (BitVec.ofFin y : Nibble) ++ n).toNat = _
  rw [append_toNat, append_toNat, append_toNat]
  show ((c.toNat * 16 + x.val) * 16 + y.val) * 16 + n.toNat = _
  ring

theorem formatXK_toNat (c : Nibble) (x : RegNum) (nn : Byte) :
    (formatXK c x nn).toNat = c.toNat * 4096 + x.val * 256 + nn.toNat := by
  show (c ++ (BitVec.ofFin x : Nibble) ++ nn).toNat = _
  rw [append_toNat, append_toNat]
  show (c.toNat * 16 + x.val) * 256 + nn.toNat = _
  ring

theorem formatA_toNat (c : Nibble) (nnn : Addr) : (formatA c nnn).toNat = c.toNat * 4096 + nnn.toNat := by
  show (c ++ nnn).toNat = _
  rw [append_toNat]
  rfl

/-! ### fields as numbers -/

theorem fieldClass_toNat (op : Word) : (fieldClass op).toNat = op.toNat / 4096 := by
  have := op.isLt
  simp only [fieldClass, BitVec.extractLsb'_toNat, Nat.shiftRight_eq_div_pow]
  omega

theorem fieldX_val (op : Word) : (fieldX op).val = op.toNat / 256 % 16 := by
  have : (fieldX op).val = (op.extractLsb' 8 4).toNat := rfl
  simp only [this, BitVec.extractLsb'_toNat, Nat.shiftRight_eq_div_pow]

theorem fieldY_val (op : Word) : (fieldY op).val = op.toNat / 16 % 16 := by
  have : (fieldY op).val = (op.extractLsb' 4 4).toNat := rfl
  simp only [this, BitVec.extractLsb'_toNat, Nat.shiftRight_eq_div_pow]

theorem fieldN_toNat (op : Word) : (fieldN op).toNat = op.toNat % 16 := by
  simp only [fieldN, BitVec.extractLsb'_toNat, Nat.shiftRight_eq_div_pow]
  omega

theorem fieldNN_toNat (op : Word) : (fieldNN op).toNat = op.toNat % 256 := by
  simp only [fieldNN, BitVec.extractLsb'_toNat, Nat.shiftRight_eq_div_pow]
  omega

theorem fieldNNN_toNat (op : Word) : (fieldNNN op).toNat = op.toNat % 4096 := by
  simp only [fieldNNN, BitVec.extractLsb'_toNat, Nat.shiftRight_eq_div_pow]
  omega

/-! ### the fields of each format -/

@[simp] theorem fieldClass_formatXYN (c : Nibble) (x y : RegNum) (n : Nibble) : fieldClass (formatXYN c x y n) = c := by
  apply BitVec.eq_of_toNat_eq
  have := n.isLt
  rw [fieldClass_toNat, formatXYN_toNat]
  omega

@[simp] theorem fieldX_formatXYN (c : Nibble) (x y : RegNum) (n : Nibble) : fieldX (formatXYN c x y n) = x := by
  apply Fin.ext
  have := n.isLt
  rw [fieldX_val, formatXYN_toNat]
  omega

@[simp] theorem fieldY_formatXYN (c : Nibble) (x y : RegNum) (n : Nibble) : fieldY (formatXYN c x y n) = y := by
  apply Fin.ext
  have := n.isLt
  rw [fieldY_val, formatXYN_toNat]
  omega

@[simp] theorem fieldN_formatXYN (c : Nibble) (x y : RegNum) (n : Nibble) : fieldN (formatXYN c x y n) = n := by
  apply BitVec.eq_of_toNat_eq
  have := n.isLt
  rw [fieldN_toNat, formatXYN_toNat]
  omega

@[simp] theorem fieldClass_formatXK (c : Nibble) (x : RegNum) (nn : Byte) : fieldClass (formatXK c x nn) = c := by
  apply BitVec.eq_of_toNat_eq
  have := nn.isLt
  rw [fieldClass_toNat, formatXK_toNat]
  omega

@[simp] theorem fieldX_formatXK (c : Nibble) (x : RegNum) (nn : Byte) : fieldX (formatXK c x nn) = x := by
  apply Fin.ext
  have := nn.isLt
  rw [fieldX_val, formatXK_toNat]
  omega

@[simp] theorem fieldNN_formatXK (c : Nibble) (x : RegNum) (nn : Byte) : fieldNN (formatXK c x nn) = nn := by
  apply BitVec.eq_of_toNat_eq
  have := nn.isLt
  rw [fieldNN_toNat, formatXK_toNat]
  omega

@[simp] theorem fieldClass_formatA (c : Nibble) (nnn : Addr) : fieldClass (formatA c nnn) = c := by
  apply BitVec.eq_of_toNat_eq
  have := nnn.isLt
  rw [fieldClass_toNat, formatA_toNat]
  omega

@[simp] theorem fieldNNN_formatA (c : Nibble) (nnn : Addr) : fieldNNN (formatA c nnn) = nnn := by
  apply BitVec.eq_of_toNat_eq
  have := nnn.isLt
  rw [fieldNNN_toNat, formatA_toNat]
  omega

/-! ### a word is the format of its fields -/

theorem word_eq_formatXYN (op : Word) : op = formatXYN (fieldClass op) (fieldX op) (fieldY op) (fieldN op) := by
  apply BitVec.eq_of_toNat_eq
  rw [formatXYN_toNat, fieldClass_toNat, fieldX_val, fieldY_val, fieldN_toNat]
  omega

theorem word_eq_formatXK (op : Word) : op = formatXK (fieldClass op) (fieldX op) (fieldNN op) := by
  apply BitVec.eq_of_toNat_eq
  rw [formatXK_toNat, fieldClass_toNat, fieldX_val, fieldNN_toNat]
  omega

theorem word_eq_formatA (op : Word) : op = formatA (fieldClass op) (fieldNNN op) := by
  apply BitVec.eq_of_toNat_eq
  rw [formatA_toNat, fieldClass_toNat, fieldNNN_toNat]
  omega

/-! ### the bytes of a word -/

theorem wordOfBytes_toNat (hi lo : Byte) : (wordOfBytes hi lo).toNat = hi.toNat * 256 + lo.toNat := by
  show (hi ++ lo).toNat = _
  rw [append_toNat]
  rfl

theorem highByte_toNat (op : Word) : (highByte op).toNat = op.toNat / 256 := by
  have := op.isLt
  simp only [highByte, BitVec.extractLsb'_toNat, Nat.shiftRight_eq_div_pow]
  omega

theorem lowByte_toNat (op : Word) : (lowByte op).toNat = op.toNat % 256 := by
  simp only [lowByte, BitVec.extractLsb'_toNat, Nat.shiftRight_eq_div_pow]
  omega

@[simp] theorem wordOfBytes_bytes (op : Word) : wordOfBytes (highByte op) (lowByte op) = op := by
  apply BitVec.eq_of_toNat_eq
  rw [wordOfBytes_toNat, highByte_toNat, lowByte_toNat]
  omega

/-! ### the masks of the opcode map -/

theorem formatXYN_and (c d : Nibble) (x y p q : RegNum) (n m : Nibble) :
    formatXYN c x y n &&& formatXYN d p q m = formatXYN (c &&& d) ((BitVec.ofFin x : Nibble) &&& BitVec.ofFin p).toFin
      ((BitVec.ofFin y : Nibble) &&& BitVec.ofFin q).toFin (n &&& m) := by
  show ((c ++ (BitVec.ofFin x : Nibble) ++ (BitVec.ofFin y : Nibble) ++ n) &&&
    (d ++ (BitVec.ofFin p : Nibble) ++ (BitVec.ofFin q : Nibble) ++ m) : BitVec (4 + 4 + 4 + 4)) = _
  rw [BitVec.and_append, BitVec.and_append, BitVec.and_append]
  rfl

theorem formatXK_eq_formatXYN (c : Nibble) (x : RegNum) (nn : Byte) :
    formatXK c x nn = formatXYN c x (Fin.ofNat 16 (nn.toNat / 16)) (BitVec.ofNat 4 nn.toNat) := by
  apply BitVec.eq_of_toNat_eq
  have := nn.isLt
  rw [formatXK_toNat, formatXYN_toNat, BitVec.toNat_ofNat, Fin.ofNat]
  simp only
  omega

theorem formatA_eq_formatXYN (c : Nibble) (nnn : Addr) :
    formatA c nnn = formatXYN c (Fin.ofNat 16 (nnn.toNat / 256)) (Fin.ofNat 16 (nnn.toNat / 16))
      (BitVec.ofNat 4 nnn.toNat) := by
  apply BitVec.eq_of_toNat_eq
  have := nnn.isLt
  rw [formatA_toNat, formatXYN_toNat, BitVec.toNat_ofNat, Fin.ofNat, Fin.ofNat]
  simp only
  omega

theorem nibble_and_all (a : Nibble) : a &&& 0xF = a := by
  revert a; decide

theorem nibble_and_none (a : Nibble) : a &&& 0x0 = 0 := by
  revert a; decide

theorem reg_and_none (x : RegNum) : ((BitVec.ofFin x : Nibble) &&& BitVec.ofFin (0 : RegNum)).toFin = (0 : RegNum) := by
  revert x; decide

theorem reg_and_all (x : RegNum) : ((BitVec.ofFin x : Nibble) &&& BitVec.ofFin (15 : RegNum)).toFin = x := by
  revert x; decide

/-- The mask of formats A, XK and XYN keeps the class. -/
theorem mask_class (c : Nibble) (x y : RegNum) (n : Nibble) : formatXYN c x y n &&& 0xF000 = formatXYN c 0 0 0 := by
  have h : (0xF000 : Word) = formatXYN 0xF 0 0 0x0 := by decide
  rw [h, formatXYN_and, reg_and_none, reg_and_none]
  exact congrArg₂ (fun c n => formatXYN c 0 0 n) (nibble_and_all c) (nibble_and_none n)

/-- The mask of format XY keeps the class and n. -/
theorem mask_class_n (c : Nibble) (x y : RegNum) (n : Nibble) : formatXYN c x y n &&& 0xF00F = formatXYN c 0 0 n := by
  have h : (0xF00F : Word) = formatXYN 0xF 0 0 0xF := by decide
  rw [h, formatXYN_and, reg_and_none, reg_and_none]
  exact congrArg₂ (fun c n => formatXYN c 0 0 n) (nibble_and_all c) (nibble_and_all n)

/-- The mask of format X keeps the class and nn. -/
theorem mask_class_nn (c : Nibble) (x y : RegNum) (n : Nibble) : formatXYN c x y n &&& 0xF0FF = formatXYN c 0 y n := by
  have h : (0xF0FF : Word) = formatXYN 0xF 0 15 0xF := by decide
  rw [h, formatXYN_and, reg_and_none, reg_and_all]
  exact congrArg₂ (fun c n => formatXYN c 0 y n) (nibble_and_all c) (nibble_and_all n)

/-! ### rows of the opcode map, format by format -/

theorem covers_formatA {m : String} (c : Nibble) (nnn : Addr) :
    OpcodeRow.covers ⟨m, formatXYN c 0 0 0, 0xF000⟩ (formatA c nnn) = true := by
  simp only [OpcodeRow.covers, formatA_eq_formatXYN, mask_class, beq_self_eq_true]

theorem covers_formatXK {m : String} (c : Nibble) (x : RegNum) (nn : Byte) :
    OpcodeRow.covers ⟨m, formatXYN c 0 0 0, 0xF000⟩ (formatXK c x nn) = true := by
  simp only [OpcodeRow.covers, formatXK_eq_formatXYN, mask_class, beq_self_eq_true]

theorem covers_formatXYN {m : String} (c : Nibble) (x y : RegNum) (n : Nibble) :
    OpcodeRow.covers ⟨m, formatXYN c 0 0 0, 0xF000⟩ (formatXYN c x y n) = true := by
  simp only [OpcodeRow.covers, mask_class, beq_self_eq_true]

theorem covers_formatXY {m : String} (c : Nibble) (x y : RegNum) (n : Nibble) :
    OpcodeRow.covers ⟨m, formatXYN c 0 0 n, 0xF00F⟩ (formatXYN c x y n) = true := by
  simp only [OpcodeRow.covers, mask_class_n, beq_self_eq_true]

theorem covers_formatX {m : String} (c : Nibble) (x : RegNum) (nn : Byte) :
    OpcodeRow.covers ⟨m, formatXK c 0 nn, 0xF0FF⟩ (formatXK c x nn) = true := by
  simp only [OpcodeRow.covers, formatXK_eq_formatXYN, mask_class_nn, beq_self_eq_true]

end Sys2Proof
end

