-- ==== Sys2Proof/Laws/Memory.lean ====
section
/-! SUPPORT. The laws of memory: a read after a write, that a write keeps the canonical form, and the same for a run of
bytes. -/

namespace Sys2Proof.Machine

theorem Memory.lookup_list (m : Memory) (a b : Nat) (v : Byte) :
    (m.list a v).lookup b = if b = a then some v else m.lookup b := by
  induction m with
  | nil => simp [Memory.list, Memory.lookup, eq_comm]
  | cons c m ih =>
    unfold Memory.list
    split
    · simp [Memory.lookup, eq_comm]
    · split
      · next e =>
        by_cases hb : b = a
        · simp [Memory.lookup, hb]
        · have : a ≠ b := fun e => hb e.symm
          simp [Memory.lookup, hb, ← e, this]
      · next hlt hne =>
        simp only [Memory.lookup, ih]
        by_cases hb : c.1 = b
        · have : b ≠ a := fun e => hne (e ▸ hb.symm)
          simp [hb, this]
        · simp [hb]

theorem Memory.lookup_unlist (m : Memory) (a b : Nat) :
    (m.unlist a).lookup b = if b = a then none else m.lookup b := by
  induction m with
  | nil => simp [Memory.unlist, Memory.lookup]
  | cons c m ih =>
    unfold Memory.unlist at ih ⊢
    by_cases hc : c.1 = a
    · by_cases hb : b = a
      · subst hb; simpa [hc] using ih
      · have : a ≠ b := fun e => hb e.symm
        simp [hc, ih, hb, Memory.lookup, this]
    · by_cases hb : c.1 = b
      · have : b ≠ a := fun e => hc (hb.trans e)
        simp [hb, Memory.lookup, this]
      · simp [hc, hb, ih, Memory.lookup]

/-- A read after a write: the written byte at the written address, every other byte as before (R52, R56). -/
theorem Memory.read_write (m : Memory) (a b : Nat) (v : Byte) (ha : a < Config.memSize) :
    (m.write a v).read b = if b = a then v else m.read b := by
  unfold Memory.write
  rw [if_pos ha]
  split
  · next hv =>
    simp only [Memory.read, Memory.lookup_unlist]
    by_cases hb : b = a <;> simp [hb, hv]
  · simp only [Memory.read, Memory.lookup_list m a b v]
    by_cases hb : b = a <;> simp [hb]

/-- An address above 0xFFF names no cell. -/
theorem Memory.write_outside (m : Memory) (a : Nat) (v : Byte) (h : ¬ a < Config.memSize) : m.write a v = m := by
  simp only [Memory.write, if_neg h]

theorem Memory.mem_list (m : Memory) (a : Nat) (v : Byte) (c : Host.Cell) (h : c ∈ m.list a v) :
    c = (a, v) ∨ c ∈ m := by
  induction m with
  | nil => simpa [Memory.list] using h
  | cons d m ih =>
    unfold Memory.list at h
    split at h
    · simpa using h
    · split at h
      · rcases List.mem_cons.mp h with e | e
        · exact .inl e
        · exact .inr (List.mem_cons_of_mem _ e)
      · rcases List.mem_cons.mp h with e | e
        · exact .inr (e ▸ List.mem_cons_self)
        · exact (ih e).imp_right (List.mem_cons_of_mem _)

theorem Memory.pairwise_list (m : Memory) (a : Nat) (v : Byte) (h : m.Pairwise fun c d => c.1 < d.1) :
    (m.list a v).Pairwise fun c d => c.1 < d.1 := by
  induction m with
  | nil => simp [Memory.list]
  | cons c m ih =>
    have hc := List.pairwise_cons.mp h
    unfold Memory.list
    split
    · next hlt =>
      refine List.pairwise_cons.mpr ⟨fun d hd => ?_, h⟩
      rcases List.mem_cons.mp hd with e | e
      · exact e ▸ hlt
      · exact hlt.trans (hc.1 d e)
    · split
      · next e => exact List.pairwise_cons.mpr ⟨fun d hd => e ▸ hc.1 d hd, hc.2⟩
      · next hlt hne =>
        refine List.pairwise_cons.mpr ⟨fun d hd => ?_, ih hc.2⟩
        rcases Memory.mem_list m a v d hd with e | e
        · subst e; exact lt_of_le_of_ne (Nat.le_of_not_lt hlt) (Ne.symm hne)
        · exact hc.1 d e

/-- A write keeps the canonical form. -/
theorem Memory.wf_write (m : Memory) (a : Nat) (v : Byte) (h : m.wf) : (m.write a v).wf := by
  unfold Memory.write
  split
  · next ha =>
    split
    · exact ⟨h.1.filter _, fun c hc => h.2 c (List.mem_of_mem_filter hc)⟩
    · next hv =>
      refine ⟨m.pairwise_list a v h.1, fun c hc => ?_⟩
      rcases m.mem_list a v c hc with e | e
      · subst e; exact ⟨ha, hv⟩
      · exact h.2 c e
  · exact h

theorem Memory.wf_nil : Memory.wf [] := ⟨List.Pairwise.nil, fun _ h => absurd h List.not_mem_nil⟩

/-- A run of writes keeps the canonical form. -/
theorem Memory.wf_writeBytes (bs : List Byte) (m : Memory) (a : Nat) (h : m.wf) : (m.writeBytes a bs).wf := by
  induction bs generalizing m a with
  | nil => exact h
  | cons b bs ih => exact ih _ _ (m.wf_write a b h)

/-- A read after a run of writes inside the address space: the k-th byte at a + k, every other byte as before. -/
theorem Memory.read_writeBytes (bs : List Byte) (m : Memory) (a b : Nat)
    (ha : a + bs.length ≤ Config.memSize) :
    (m.writeBytes a bs).read b = if hb : a ≤ b ∧ b < a + bs.length then bs[b - a] else m.read b := by
  induction bs generalizing m a with
  | nil =>
    have : ¬(a ≤ b ∧ b < a + ([] : List Byte).length) := fun h => absurd h.2 (by simpa using h.1)
    rw [dif_neg this]
    rfl
  | cons v bs ih =>
    simp only [List.length_cons] at ha
    have hw := Memory.read_write m a b v (by omega)
    simp only [Memory.writeBytes]
    rw [ih (m.write a v) (a + 1) (by omega)]
    by_cases hb : b = a
    · subst hb; simp [hw]
    · by_cases hin : a + 1 ≤ b ∧ b < a + 1 + bs.length
      · rw [dif_pos hin, dif_pos (by simp only [List.length_cons]; omega)]
        have : b - a = (b - (a + 1)) + 1 := by omega
        simp [this]
      · rw [dif_neg hin, dif_neg (by simp only [List.length_cons]; omega), hw, if_neg hb]

/-- Bytes outside a run of writes are unchanged, wherever the run lies. -/
theorem Memory.read_writeBytes_outside (bs : List Byte) (m : Memory) (a b : Nat)
    (hb : b < a ∨ a + bs.length ≤ b) : (m.writeBytes a bs).read b = m.read b := by
  induction bs generalizing m a with
  | nil => rfl
  | cons v bs ih =>
    simp only [List.length_cons] at hb
    simp only [Memory.writeBytes]
    rw [ih _ _ (by omega)]
    by_cases ha : a < Config.memSize
    · rw [m.read_write a b v ha, if_neg (by omega)]
    · rw [m.write_outside a v ha]

/-- An address below every listed one is not listed. -/
theorem Memory.lookup_none_of_lt (m : Memory) (a : Nat) (h : ∀ c ∈ m, a < c.1) : m.lookup a = none := by
  induction m with
  | nil => rfl
  | cons c m ih =>
    have := h c List.mem_cons_self
    simp only [Memory.lookup]
    rw [if_neg (by omega)]
    exact ih fun d hd => h d (List.mem_cons_of_mem _ hd)

/-- Equal memories are equal data: a memory in canonical form is determined by what it reads. -/
theorem Memory.ext_of_read (m m' : Memory) (h : m.wf) (h' : m'.wf) (e : ∀ a, m.read a = m'.read a) : m = m' := by
  have listed : ∀ (m : Memory) (c : Host.Cell) (r : Memory), m = c :: r → m.wf → m.read c.1 = c.2 ∧ m.read c.1 ≠ unlisted c.1 := by
    intro m c r hm hw
    subst hm
    have h2 := (hw.2 c List.mem_cons_self).2
    simpa [Memory.read, Memory.lookup] using h2
  have below : ∀ (m : Memory) (a : Nat), (∀ c ∈ m, a < c.1) → m.read a = unlisted a := fun m a hm => by
    simp [Memory.read, Memory.lookup_none_of_lt m a hm]
  induction m generalizing m' with
  | nil =>
    cases m' with
    | nil => rfl
    | cons c r =>
      have := (listed _ c r rfl h').2
      exact absurd ((e c.1).symm.trans (by simp [Memory.read, Memory.lookup])) this
  | cons c r ih =>
    have hc := List.pairwise_cons.mp h.1
    cases m' with
    | nil => exact absurd ((e c.1).trans (by simp [Memory.read, Memory.lookup])) (listed _ c r rfl h).2
    | cons d q =>
      have hd := List.pairwise_cons.mp h'.1
      have hcd : c.1 = d.1 := by
        rcases Nat.lt_trichotomy c.1 d.1 with hlt | heq | hgt
        · refine absurd ((e c.1).trans (below (d :: q) c.1 fun x hx => ?_)) (listed _ c r rfl h).2
          rcases List.mem_cons.mp hx with e | e
          · exact e ▸ hlt
          · exact hlt.trans (hd.1 x e)
        · exact heq
        · refine absurd ((e d.1).symm.trans (below (c :: r) d.1 fun x hx => ?_)) (listed _ d q rfl h').2
          rcases List.mem_cons.mp hx with e | e
          · exact e ▸ hgt
          · exact hgt.trans (hc.1 x e)
      have hv : c.2 = d.2 := by
        rw [← (listed _ c r rfl h).1, ← (listed _ d q rfl h').1, e c.1, hcd]
      have hcell : c = d := Prod.ext hcd hv
      subst hcell
      refine congrArg (c :: ·) (ih q ⟨hc.2, fun x hx => h.2 x (List.mem_cons_of_mem _ hx)⟩ ⟨hd.2, fun x hx => h'.2 x (List.mem_cons_of_mem _ hx)⟩ fun a => ?_)
      by_cases ha : c.1 = a
      · subst ha
        rw [below r c.1 hc.1, below q c.1 hd.1]
      · have := e a
        simpa [Memory.read, Memory.lookup, ha] using this

end Sys2Proof.Machine
end

