-- ==== Sys2Proof/Laws/State.lean ====
section
/-! SUPPORT. One lemma for each field of the state under each named update, so that no proof unfolds a record update. Lemmas
about registers after a write stand below them. -/

namespace Sys2Proof.Machine

/-! ### `setReg` -/

@[simp] theorem State.setReg_mem (s : State) (r : RegNum) (b : Byte) : (s.setReg r b).mem = s.mem := rfl
@[simp] theorem State.setReg_v (s : State) (r : RegNum) (b : Byte) : (s.setReg r b).v = s.v.set r b := rfl
@[simp] theorem State.setReg_i (s : State) (r : RegNum) (b : Byte) : (s.setReg r b).i = s.i := rfl
@[simp] theorem State.setReg_pc (s : State) (r : RegNum) (b : Byte) : (s.setReg r b).pc = s.pc := rfl
@[simp] theorem State.setReg_stack (s : State) (r : RegNum) (b : Byte) : (s.setReg r b).stack = s.stack := rfl
@[simp] theorem State.setReg_sp (s : State) (r : RegNum) (b : Byte) : (s.setReg r b).sp = s.sp := rfl
@[simp] theorem State.setReg_dt (s : State) (r : RegNum) (b : Byte) : (s.setReg r b).dt = s.dt := rfl
@[simp] theorem State.setReg_st (s : State) (r : RegNum) (b : Byte) : (s.setReg r b).st = s.st := rfl
@[simp] theorem State.setReg_fb (s : State) (r : RegNum) (b : Byte) : (s.setReg r b).fb = s.fb := rfl
@[simp] theorem State.setReg_key (s : State) (r : RegNum) (b : Byte) : (s.setReg r b).key = s.key := rfl
@[simp] theorem State.setReg_status (s : State) (r : RegNum) (b : Byte) : (s.setReg r b).status = s.status := rfl
@[simp] theorem State.setReg_rndIn (s : State) (r : RegNum) (b : Byte) : (s.setReg r b).rndIn = s.rndIn := rfl
@[simp] theorem State.setReg_draws (s : State) (r : RegNum) (b : Byte) : (s.setReg r b).draws = s.draws := rfl

/-! ### `setFlag` -/

@[simp] theorem State.setFlag_mem (s : State) (f : Bool) : (s.setFlag f).mem = s.mem := rfl
@[simp] theorem State.setFlag_v (s : State) (f : Bool) : (s.setFlag f).v = s.v.set regVF (flagByte f) := rfl
@[simp] theorem State.setFlag_i (s : State) (f : Bool) : (s.setFlag f).i = s.i := rfl
@[simp] theorem State.setFlag_pc (s : State) (f : Bool) : (s.setFlag f).pc = s.pc := rfl
@[simp] theorem State.setFlag_stack (s : State) (f : Bool) : (s.setFlag f).stack = s.stack := rfl
@[simp] theorem State.setFlag_sp (s : State) (f : Bool) : (s.setFlag f).sp = s.sp := rfl
@[simp] theorem State.setFlag_dt (s : State) (f : Bool) : (s.setFlag f).dt = s.dt := rfl
@[simp] theorem State.setFlag_st (s : State) (f : Bool) : (s.setFlag f).st = s.st := rfl
@[simp] theorem State.setFlag_fb (s : State) (f : Bool) : (s.setFlag f).fb = s.fb := rfl
@[simp] theorem State.setFlag_key (s : State) (f : Bool) : (s.setFlag f).key = s.key := rfl
@[simp] theorem State.setFlag_status (s : State) (f : Bool) : (s.setFlag f).status = s.status := rfl
@[simp] theorem State.setFlag_rndIn (s : State) (f : Bool) : (s.setFlag f).rndIn = s.rndIn := rfl
@[simp] theorem State.setFlag_draws (s : State) (f : Bool) : (s.setFlag f).draws = s.draws := rfl

/-! ### `setI` -/

@[simp] theorem State.setI_mem (s : State) (w : Word) : (s.setI w).mem = s.mem := rfl
@[simp] theorem State.setI_v (s : State) (w : Word) : (s.setI w).v = s.v := rfl
@[simp] theorem State.setI_i (s : State) (w : Word) : (s.setI w).i = w := rfl
@[simp] theorem State.setI_pc (s : State) (w : Word) : (s.setI w).pc = s.pc := rfl
@[simp] theorem State.setI_stack (s : State) (w : Word) : (s.setI w).stack = s.stack := rfl
@[simp] theorem State.setI_sp (s : State) (w : Word) : (s.setI w).sp = s.sp := rfl
@[simp] theorem State.setI_dt (s : State) (w : Word) : (s.setI w).dt = s.dt := rfl
@[simp] theorem State.setI_st (s : State) (w : Word) : (s.setI w).st = s.st := rfl
@[simp] theorem State.setI_fb (s : State) (w : Word) : (s.setI w).fb = s.fb := rfl
@[simp] theorem State.setI_key (s : State) (w : Word) : (s.setI w).key = s.key := rfl
@[simp] theorem State.setI_status (s : State) (w : Word) : (s.setI w).status = s.status := rfl
@[simp] theorem State.setI_rndIn (s : State) (w : Word) : (s.setI w).rndIn = s.rndIn := rfl
@[simp] theorem State.setI_draws (s : State) (w : Word) : (s.setI w).draws = s.draws := rfl

/-! ### `setPc` -/

@[simp] theorem State.setPc_mem (s : State) (w : Word) : (s.setPc w).mem = s.mem := rfl
@[simp] theorem State.setPc_v (s : State) (w : Word) : (s.setPc w).v = s.v := rfl
@[simp] theorem State.setPc_i (s : State) (w : Word) : (s.setPc w).i = s.i := rfl
@[simp] theorem State.setPc_pc (s : State) (w : Word) : (s.setPc w).pc = w := rfl
@[simp] theorem State.setPc_stack (s : State) (w : Word) : (s.setPc w).stack = s.stack := rfl
@[simp] theorem State.setPc_sp (s : State) (w : Word) : (s.setPc w).sp = s.sp := rfl
@[simp] theorem State.setPc_dt (s : State) (w : Word) : (s.setPc w).dt = s.dt := rfl
@[simp] theorem State.setPc_st (s : State) (w : Word) : (s.setPc w).st = s.st := rfl
@[simp] theorem State.setPc_fb (s : State) (w : Word) : (s.setPc w).fb = s.fb := rfl
@[simp] theorem State.setPc_key (s : State) (w : Word) : (s.setPc w).key = s.key := rfl
@[simp] theorem State.setPc_status (s : State) (w : Word) : (s.setPc w).status = s.status := rfl
@[simp] theorem State.setPc_rndIn (s : State) (w : Word) : (s.setPc w).rndIn = s.rndIn := rfl
@[simp] theorem State.setPc_draws (s : State) (w : Word) : (s.setPc w).draws = s.draws := rfl

/-! ### `advance` -/

@[simp] theorem State.advance_mem (s : State) : (s.advance).mem = s.mem := rfl
@[simp] theorem State.advance_v (s : State) : (s.advance).v = s.v := rfl
@[simp] theorem State.advance_i (s : State) : (s.advance).i = s.i := rfl
@[simp] theorem State.advance_pc (s : State) : (s.advance).pc = s.pc + 2 := rfl
@[simp] theorem State.advance_stack (s : State) : (s.advance).stack = s.stack := rfl
@[simp] theorem State.advance_sp (s : State) : (s.advance).sp = s.sp := rfl
@[simp] theorem State.advance_dt (s : State) : (s.advance).dt = s.dt := rfl
@[simp] theorem State.advance_st (s : State) : (s.advance).st = s.st := rfl
@[simp] theorem State.advance_fb (s : State) : (s.advance).fb = s.fb := rfl
@[simp] theorem State.advance_key (s : State) : (s.advance).key = s.key := rfl
@[simp] theorem State.advance_status (s : State) : (s.advance).status = s.status := rfl
@[simp] theorem State.advance_rndIn (s : State) : (s.advance).rndIn = s.rndIn := rfl
@[simp] theorem State.advance_draws (s : State) : (s.advance).draws = s.draws := rfl

/-! ### `skipIf` -/

@[simp] theorem State.skipIf_mem (s : State) (c : Bool) : (s.skipIf c).mem = s.mem := rfl
@[simp] theorem State.skipIf_v (s : State) (c : Bool) : (s.skipIf c).v = s.v := rfl
@[simp] theorem State.skipIf_i (s : State) (c : Bool) : (s.skipIf c).i = s.i := rfl
@[simp] theorem State.skipIf_pc (s : State) (c : Bool) : (s.skipIf c).pc = if c then s.pc + 4 else s.pc + 2 := rfl
@[simp] theorem State.skipIf_stack (s : State) (c : Bool) : (s.skipIf c).stack = s.stack := rfl
@[simp] theorem State.skipIf_sp (s : State) (c : Bool) : (s.skipIf c).sp = s.sp := rfl
@[simp] theorem State.skipIf_dt (s : State) (c : Bool) : (s.skipIf c).dt = s.dt := rfl
@[simp] theorem State.skipIf_st (s : State) (c : Bool) : (s.skipIf c).st = s.st := rfl
@[simp] theorem State.skipIf_fb (s : State) (c : Bool) : (s.skipIf c).fb = s.fb := rfl
@[simp] theorem State.skipIf_key (s : State) (c : Bool) : (s.skipIf c).key = s.key := rfl
@[simp] theorem State.skipIf_status (s : State) (c : Bool) : (s.skipIf c).status = s.status := rfl
@[simp] theorem State.skipIf_rndIn (s : State) (c : Bool) : (s.skipIf c).rndIn = s.rndIn := rfl
@[simp] theorem State.skipIf_draws (s : State) (c : Bool) : (s.skipIf c).draws = s.draws := rfl

/-! ### `setDt` -/

@[simp] theorem State.setDt_mem (s : State) (b : Byte) : (s.setDt b).mem = s.mem := rfl
@[simp] theorem State.setDt_v (s : State) (b : Byte) : (s.setDt b).v = s.v := rfl
@[simp] theorem State.setDt_i (s : State) (b : Byte) : (s.setDt b).i = s.i := rfl
@[simp] theorem State.setDt_pc (s : State) (b : Byte) : (s.setDt b).pc = s.pc := rfl
@[simp] theorem State.setDt_stack (s : State) (b : Byte) : (s.setDt b).stack = s.stack := rfl
@[simp] theorem State.setDt_sp (s : State) (b : Byte) : (s.setDt b).sp = s.sp := rfl
@[simp] theorem State.setDt_dt (s : State) (b : Byte) : (s.setDt b).dt = b := rfl
@[simp] theorem State.setDt_st (s : State) (b : Byte) : (s.setDt b).st = s.st := rfl
@[simp] theorem State.setDt_fb (s : State) (b : Byte) : (s.setDt b).fb = s.fb := rfl
@[simp] theorem State.setDt_key (s : State) (b : Byte) : (s.setDt b).key = s.key := rfl
@[simp] theorem State.setDt_status (s : State) (b : Byte) : (s.setDt b).status = s.status := rfl
@[simp] theorem State.setDt_rndIn (s : State) (b : Byte) : (s.setDt b).rndIn = s.rndIn := rfl
@[simp] theorem State.setDt_draws (s : State) (b : Byte) : (s.setDt b).draws = s.draws := rfl

/-! ### `setSt` -/

@[simp] theorem State.setSt_mem (s : State) (b : Byte) : (s.setSt b).mem = s.mem := rfl
@[simp] theorem State.setSt_v (s : State) (b : Byte) : (s.setSt b).v = s.v := rfl
@[simp] theorem State.setSt_i (s : State) (b : Byte) : (s.setSt b).i = s.i := rfl
@[simp] theorem State.setSt_pc (s : State) (b : Byte) : (s.setSt b).pc = s.pc := rfl
@[simp] theorem State.setSt_stack (s : State) (b : Byte) : (s.setSt b).stack = s.stack := rfl
@[simp] theorem State.setSt_sp (s : State) (b : Byte) : (s.setSt b).sp = s.sp := rfl
@[simp] theorem State.setSt_dt (s : State) (b : Byte) : (s.setSt b).dt = s.dt := rfl
@[simp] theorem State.setSt_st (s : State) (b : Byte) : (s.setSt b).st = b := rfl
@[simp] theorem State.setSt_fb (s : State) (b : Byte) : (s.setSt b).fb = s.fb := rfl
@[simp] theorem State.setSt_key (s : State) (b : Byte) : (s.setSt b).key = s.key := rfl
@[simp] theorem State.setSt_status (s : State) (b : Byte) : (s.setSt b).status = s.status := rfl
@[simp] theorem State.setSt_rndIn (s : State) (b : Byte) : (s.setSt b).rndIn = s.rndIn := rfl
@[simp] theorem State.setSt_draws (s : State) (b : Byte) : (s.setSt b).draws = s.draws := rfl

/-! ### `halt` -/

@[simp] theorem State.halt_mem (s : State) (c : Cause) (w : Word) : (s.halt c w).mem = s.mem := rfl
@[simp] theorem State.halt_v (s : State) (c : Cause) (w : Word) : (s.halt c w).v = s.v := rfl
@[simp] theorem State.halt_i (s : State) (c : Cause) (w : Word) : (s.halt c w).i = s.i := rfl
@[simp] theorem State.halt_pc (s : State) (c : Cause) (w : Word) : (s.halt c w).pc = s.pc := rfl
@[simp] theorem State.halt_stack (s : State) (c : Cause) (w : Word) : (s.halt c w).stack = s.stack := rfl
@[simp] theorem State.halt_sp (s : State) (c : Cause) (w : Word) : (s.halt c w).sp = s.sp := rfl
@[simp] theorem State.halt_dt (s : State) (c : Cause) (w : Word) : (s.halt c w).dt = s.dt := rfl
@[simp] theorem State.halt_st (s : State) (c : Cause) (w : Word) : (s.halt c w).st = s.st := rfl
@[simp] theorem State.halt_fb (s : State) (c : Cause) (w : Word) : (s.halt c w).fb = s.fb := rfl
@[simp] theorem State.halt_key (s : State) (c : Cause) (w : Word) : (s.halt c w).key = s.key := rfl
@[simp] theorem State.halt_status (s : State) (c : Cause) (w : Word) : (s.halt c w).status = { halted := true, cause := c, info := w } := rfl
@[simp] theorem State.halt_rndIn (s : State) (c : Cause) (w : Word) : (s.halt c w).rndIn = s.rndIn := rfl
@[simp] theorem State.halt_draws (s : State) (c : Cause) (w : Word) : (s.halt c w).draws = s.draws := rfl

/-! ### `tick` -/

@[simp] theorem State.tick_mem (s : State) : (s.tick).mem = s.mem := rfl
@[simp] theorem State.tick_v (s : State) : (s.tick).v = s.v := rfl
@[simp] theorem State.tick_i (s : State) : (s.tick).i = s.i := rfl
@[simp] theorem State.tick_pc (s : State) : (s.tick).pc = s.pc := rfl
@[simp] theorem State.tick_stack (s : State) : (s.tick).stack = s.stack := rfl
@[simp] theorem State.tick_sp (s : State) : (s.tick).sp = s.sp := rfl
@[simp] theorem State.tick_dt (s : State) : (s.tick).dt = countDown s.dt := rfl
@[simp] theorem State.tick_st (s : State) : (s.tick).st = countDown s.st := rfl
@[simp] theorem State.tick_fb (s : State) : (s.tick).fb = s.fb := rfl
@[simp] theorem State.tick_key (s : State) : (s.tick).key = s.key := rfl
@[simp] theorem State.tick_status (s : State) : (s.tick).status = s.status := rfl
@[simp] theorem State.tick_rndIn (s : State) : (s.tick).rndIn = s.rndIn := rfl
@[simp] theorem State.tick_draws (s : State) : (s.tick).draws = s.draws := rfl

/-! ### `store` -/

@[simp] theorem State.store_mem (s : State) (bs : List Byte) : (s.store bs).mem = s.mem.writeBytes (s.address 0) bs := rfl
@[simp] theorem State.store_v (s : State) (bs : List Byte) : (s.store bs).v = s.v := rfl
@[simp] theorem State.store_i (s : State) (bs : List Byte) : (s.store bs).i = s.i := rfl
@[simp] theorem State.store_pc (s : State) (bs : List Byte) : (s.store bs).pc = s.pc := rfl
@[simp] theorem State.store_stack (s : State) (bs : List Byte) : (s.store bs).stack = s.stack := rfl
@[simp] theorem State.store_sp (s : State) (bs : List Byte) : (s.store bs).sp = s.sp := rfl
@[simp] theorem State.store_dt (s : State) (bs : List Byte) : (s.store bs).dt = s.dt := rfl
@[simp] theorem State.store_st (s : State) (bs : List Byte) : (s.store bs).st = s.st := rfl
@[simp] theorem State.store_fb (s : State) (bs : List Byte) : (s.store bs).fb = s.fb := rfl
@[simp] theorem State.store_key (s : State) (bs : List Byte) : (s.store bs).key = s.key := rfl
@[simp] theorem State.store_status (s : State) (bs : List Byte) : (s.store bs).status = s.status := rfl
@[simp] theorem State.store_rndIn (s : State) (bs : List Byte) : (s.store bs).rndIn = s.rndIn := rfl
@[simp] theorem State.store_draws (s : State) (bs : List Byte) : (s.store bs).draws = s.draws := rfl

/-! ### `setKeys` -/

@[simp] theorem State.setKeys_mem (s : State) (k : Keys) : (s.setKeys k).mem = s.mem := rfl
@[simp] theorem State.setKeys_v (s : State) (k : Keys) : (s.setKeys k).v = s.v := rfl
@[simp] theorem State.setKeys_i (s : State) (k : Keys) : (s.setKeys k).i = s.i := rfl
@[simp] theorem State.setKeys_pc (s : State) (k : Keys) : (s.setKeys k).pc = s.pc := rfl
@[simp] theorem State.setKeys_stack (s : State) (k : Keys) : (s.setKeys k).stack = s.stack := rfl
@[simp] theorem State.setKeys_sp (s : State) (k : Keys) : (s.setKeys k).sp = s.sp := rfl
@[simp] theorem State.setKeys_dt (s : State) (k : Keys) : (s.setKeys k).dt = s.dt := rfl
@[simp] theorem State.setKeys_st (s : State) (k : Keys) : (s.setKeys k).st = s.st := rfl
@[simp] theorem State.setKeys_fb (s : State) (k : Keys) : (s.setKeys k).fb = s.fb := rfl
@[simp] theorem State.setKeys_key (s : State) (k : Keys) : (s.setKeys k).key = k := rfl
@[simp] theorem State.setKeys_status (s : State) (k : Keys) : (s.setKeys k).status = s.status := rfl
@[simp] theorem State.setKeys_rndIn (s : State) (k : Keys) : (s.setKeys k).rndIn = s.rndIn := rfl
@[simp] theorem State.setKeys_draws (s : State) (k : Keys) : (s.setKeys k).draws = s.draws := rfl

/-! ### `hostWrite` -/

@[simp] theorem State.hostWrite_mem (s : State) (o : Fin 3584) (b : Byte) : (s.hostWrite o b).mem = s.mem.write (Config.progBase + o.val) b := rfl
@[simp] theorem State.hostWrite_v (s : State) (o : Fin 3584) (b : Byte) : (s.hostWrite o b).v = s.v := rfl
@[simp] theorem State.hostWrite_i (s : State) (o : Fin 3584) (b : Byte) : (s.hostWrite o b).i = s.i := rfl
@[simp] theorem State.hostWrite_pc (s : State) (o : Fin 3584) (b : Byte) : (s.hostWrite o b).pc = s.pc := rfl
@[simp] theorem State.hostWrite_stack (s : State) (o : Fin 3584) (b : Byte) : (s.hostWrite o b).stack = s.stack := rfl
@[simp] theorem State.hostWrite_sp (s : State) (o : Fin 3584) (b : Byte) : (s.hostWrite o b).sp = s.sp := rfl
@[simp] theorem State.hostWrite_dt (s : State) (o : Fin 3584) (b : Byte) : (s.hostWrite o b).dt = s.dt := rfl
@[simp] theorem State.hostWrite_st (s : State) (o : Fin 3584) (b : Byte) : (s.hostWrite o b).st = s.st := rfl
@[simp] theorem State.hostWrite_fb (s : State) (o : Fin 3584) (b : Byte) : (s.hostWrite o b).fb = s.fb := rfl
@[simp] theorem State.hostWrite_key (s : State) (o : Fin 3584) (b : Byte) : (s.hostWrite o b).key = s.key := rfl
@[simp] theorem State.hostWrite_status (s : State) (o : Fin 3584) (b : Byte) : (s.hostWrite o b).status = s.status := rfl
@[simp] theorem State.hostWrite_rndIn (s : State) (o : Fin 3584) (b : Byte) : (s.hostWrite o b).rndIn = s.rndIn := rfl
@[simp] theorem State.hostWrite_draws (s : State) (o : Fin 3584) (b : Byte) : (s.hostWrite o b).draws = s.draws := rfl

/-! ### `supplyRnd` -/

@[simp] theorem State.supplyRnd_mem (s : State) (r : Byte) : (s.supplyRnd r).mem = s.mem := rfl
@[simp] theorem State.supplyRnd_v (s : State) (r : Byte) : (s.supplyRnd r).v = s.v := rfl
@[simp] theorem State.supplyRnd_i (s : State) (r : Byte) : (s.supplyRnd r).i = s.i := rfl
@[simp] theorem State.supplyRnd_pc (s : State) (r : Byte) : (s.supplyRnd r).pc = s.pc := rfl
@[simp] theorem State.supplyRnd_stack (s : State) (r : Byte) : (s.supplyRnd r).stack = s.stack := rfl
@[simp] theorem State.supplyRnd_sp (s : State) (r : Byte) : (s.supplyRnd r).sp = s.sp := rfl
@[simp] theorem State.supplyRnd_dt (s : State) (r : Byte) : (s.supplyRnd r).dt = s.dt := rfl
@[simp] theorem State.supplyRnd_st (s : State) (r : Byte) : (s.supplyRnd r).st = s.st := rfl
@[simp] theorem State.supplyRnd_fb (s : State) (r : Byte) : (s.supplyRnd r).fb = s.fb := rfl
@[simp] theorem State.supplyRnd_key (s : State) (r : Byte) : (s.supplyRnd r).key = s.key := rfl
@[simp] theorem State.supplyRnd_status (s : State) (r : Byte) : (s.supplyRnd r).status = s.status := rfl
@[simp] theorem State.supplyRnd_rndIn (s : State) (r : Byte) : (s.supplyRnd r).rndIn = some r := rfl
@[simp] theorem State.supplyRnd_draws (s : State) (r : Byte) : (s.supplyRnd r).draws = s.draws := rfl

/-! ### `dropRnd` -/

@[simp] theorem State.dropRnd_mem (s : State) : (s.dropRnd).mem = s.mem := rfl
@[simp] theorem State.dropRnd_v (s : State) : (s.dropRnd).v = s.v := rfl
@[simp] theorem State.dropRnd_i (s : State) : (s.dropRnd).i = s.i := rfl
@[simp] theorem State.dropRnd_pc (s : State) : (s.dropRnd).pc = s.pc := rfl
@[simp] theorem State.dropRnd_stack (s : State) : (s.dropRnd).stack = s.stack := rfl
@[simp] theorem State.dropRnd_sp (s : State) : (s.dropRnd).sp = s.sp := rfl
@[simp] theorem State.dropRnd_dt (s : State) : (s.dropRnd).dt = s.dt := rfl
@[simp] theorem State.dropRnd_st (s : State) : (s.dropRnd).st = s.st := rfl
@[simp] theorem State.dropRnd_fb (s : State) : (s.dropRnd).fb = s.fb := rfl
@[simp] theorem State.dropRnd_key (s : State) : (s.dropRnd).key = s.key := rfl
@[simp] theorem State.dropRnd_status (s : State) : (s.dropRnd).status = s.status := rfl
@[simp] theorem State.dropRnd_rndIn (s : State) : (s.dropRnd).rndIn = none := rfl
@[simp] theorem State.dropRnd_draws (s : State) : (s.dropRnd).draws = s.draws := rfl

/-! ### `result` -/

@[simp] theorem State.result_mem (s : State) (x : RegNum) (b : Byte) : (s.result x b).mem = s.mem := rfl
@[simp] theorem State.result_v (s : State) (x : RegNum) (b : Byte) : (s.result x b).v = s.v.set x b := rfl
@[simp] theorem State.result_i (s : State) (x : RegNum) (b : Byte) : (s.result x b).i = s.i := rfl
@[simp] theorem State.result_pc (s : State) (x : RegNum) (b : Byte) : (s.result x b).pc = s.pc + 2 := rfl
@[simp] theorem State.result_stack (s : State) (x : RegNum) (b : Byte) : (s.result x b).stack = s.stack := rfl
@[simp] theorem State.result_sp (s : State) (x : RegNum) (b : Byte) : (s.result x b).sp = s.sp := rfl
@[simp] theorem State.result_dt (s : State) (x : RegNum) (b : Byte) : (s.result x b).dt = s.dt := rfl
@[simp] theorem State.result_st (s : State) (x : RegNum) (b : Byte) : (s.result x b).st = s.st := rfl
@[simp] theorem State.result_fb (s : State) (x : RegNum) (b : Byte) : (s.result x b).fb = s.fb := rfl
@[simp] theorem State.result_key (s : State) (x : RegNum) (b : Byte) : (s.result x b).key = s.key := rfl
@[simp] theorem State.result_status (s : State) (x : RegNum) (b : Byte) : (s.result x b).status = s.status := rfl
@[simp] theorem State.result_rndIn (s : State) (x : RegNum) (b : Byte) : (s.result x b).rndIn = s.rndIn := rfl
@[simp] theorem State.result_draws (s : State) (x : RegNum) (b : Byte) : (s.result x b).draws = s.draws := rfl

/-! ### `flagResult` -/

@[simp] theorem State.flagResult_mem (s : State) (f : Bool) (x : RegNum) (b : Byte) : (s.flagResult f x b).mem = s.mem := rfl
@[simp] theorem State.flagResult_v (s : State) (f : Bool) (x : RegNum) (b : Byte) : (s.flagResult f x b).v = (s.v.set regVF (flagByte f)).set x b := rfl
@[simp] theorem State.flagResult_i (s : State) (f : Bool) (x : RegNum) (b : Byte) : (s.flagResult f x b).i = s.i := rfl
@[simp] theorem State.flagResult_pc (s : State) (f : Bool) (x : RegNum) (b : Byte) : (s.flagResult f x b).pc = s.pc + 2 := rfl
@[simp] theorem State.flagResult_stack (s : State) (f : Bool) (x : RegNum) (b : Byte) : (s.flagResult f x b).stack = s.stack := rfl
@[simp] theorem State.flagResult_sp (s : State) (f : Bool) (x : RegNum) (b : Byte) : (s.flagResult f x b).sp = s.sp := rfl
@[simp] theorem State.flagResult_dt (s : State) (f : Bool) (x : RegNum) (b : Byte) : (s.flagResult f x b).dt = s.dt := rfl
@[simp] theorem State.flagResult_st (s : State) (f : Bool) (x : RegNum) (b : Byte) : (s.flagResult f x b).st = s.st := rfl
@[simp] theorem State.flagResult_fb (s : State) (f : Bool) (x : RegNum) (b : Byte) : (s.flagResult f x b).fb = s.fb := rfl
@[simp] theorem State.flagResult_key (s : State) (f : Bool) (x : RegNum) (b : Byte) : (s.flagResult f x b).key = s.key := rfl
@[simp] theorem State.flagResult_status (s : State) (f : Bool) (x : RegNum) (b : Byte) : (s.flagResult f x b).status = s.status := rfl
@[simp] theorem State.flagResult_rndIn (s : State) (f : Bool) (x : RegNum) (b : Byte) : (s.flagResult f x b).rndIn = s.rndIn := rfl
@[simp] theorem State.flagResult_draws (s : State) (f : Bool) (x : RegNum) (b : Byte) : (s.flagResult f x b).draws = s.draws := rfl

/-! ### `drawn` -/

@[simp] theorem State.drawn_mem (s : State) (d : Drawing) : (s.drawn d).mem = s.mem := rfl
@[simp] theorem State.drawn_v (s : State) (d : Drawing) : (s.drawn d).v = s.v.set regVF (flagByte d.2) := rfl
@[simp] theorem State.drawn_i (s : State) (d : Drawing) : (s.drawn d).i = s.i := rfl
@[simp] theorem State.drawn_pc (s : State) (d : Drawing) : (s.drawn d).pc = s.pc + 2 := rfl
@[simp] theorem State.drawn_stack (s : State) (d : Drawing) : (s.drawn d).stack = s.stack := rfl
@[simp] theorem State.drawn_sp (s : State) (d : Drawing) : (s.drawn d).sp = s.sp := rfl
@[simp] theorem State.drawn_dt (s : State) (d : Drawing) : (s.drawn d).dt = s.dt := rfl
@[simp] theorem State.drawn_st (s : State) (d : Drawing) : (s.drawn d).st = s.st := rfl
@[simp] theorem State.drawn_fb (s : State) (d : Drawing) : (s.drawn d).fb = d.1 := rfl
@[simp] theorem State.drawn_key (s : State) (d : Drawing) : (s.drawn d).key = s.key := rfl
@[simp] theorem State.drawn_status (s : State) (d : Drawing) : (s.drawn d).status = s.status := rfl
@[simp] theorem State.drawn_rndIn (s : State) (d : Drawing) : (s.drawn d).rndIn = s.rndIn := rfl
@[simp] theorem State.drawn_draws (s : State) (d : Drawing) : (s.drawn d).draws = s.draws := rfl

/-! ### `loadRegsTo` and `consumeRnd` -/

@[simp] theorem State.loadRegsTo_mem (s : State) (x : RegNum) : (s.loadRegsTo x).mem = s.mem := rfl
@[simp] theorem State.loadRegsTo_i (s : State) (x : RegNum) : (s.loadRegsTo x).i = s.i := rfl
@[simp] theorem State.loadRegsTo_pc (s : State) (x : RegNum) : (s.loadRegsTo x).pc = s.pc := rfl
@[simp] theorem State.loadRegsTo_stack (s : State) (x : RegNum) : (s.loadRegsTo x).stack = s.stack := rfl
@[simp] theorem State.loadRegsTo_sp (s : State) (x : RegNum) : (s.loadRegsTo x).sp = s.sp := rfl
@[simp] theorem State.loadRegsTo_dt (s : State) (x : RegNum) : (s.loadRegsTo x).dt = s.dt := rfl
@[simp] theorem State.loadRegsTo_st (s : State) (x : RegNum) : (s.loadRegsTo x).st = s.st := rfl
@[simp] theorem State.loadRegsTo_fb (s : State) (x : RegNum) : (s.loadRegsTo x).fb = s.fb := rfl
@[simp] theorem State.loadRegsTo_key (s : State) (x : RegNum) : (s.loadRegsTo x).key = s.key := rfl
@[simp] theorem State.loadRegsTo_status (s : State) (x : RegNum) : (s.loadRegsTo x).status = s.status := rfl
@[simp] theorem State.loadRegsTo_rndIn (s : State) (x : RegNum) : (s.loadRegsTo x).rndIn = s.rndIn := rfl
@[simp] theorem State.loadRegsTo_draws (s : State) (x : RegNum) : (s.loadRegsTo x).draws = s.draws := rfl
@[simp] theorem State.consumeRnd_mem (s : State) : s.consumeRnd.mem = s.mem := by
  cases h : s.rndIn <;> simp [State.consumeRnd, h]
@[simp] theorem State.consumeRnd_v (s : State) : s.consumeRnd.v = s.v := by
  cases h : s.rndIn <;> simp [State.consumeRnd, h]
@[simp] theorem State.consumeRnd_i (s : State) : s.consumeRnd.i = s.i := by
  cases h : s.rndIn <;> simp [State.consumeRnd, h]
@[simp] theorem State.consumeRnd_pc (s : State) : s.consumeRnd.pc = s.pc := by
  cases h : s.rndIn <;> simp [State.consumeRnd, h]
@[simp] theorem State.consumeRnd_stack (s : State) : s.consumeRnd.stack = s.stack := by
  cases h : s.rndIn <;> simp [State.consumeRnd, h]
@[simp] theorem State.consumeRnd_sp (s : State) : s.consumeRnd.sp = s.sp := by
  cases h : s.rndIn <;> simp [State.consumeRnd, h]
@[simp] theorem State.consumeRnd_dt (s : State) : s.consumeRnd.dt = s.dt := by
  cases h : s.rndIn <;> simp [State.consumeRnd, h]
@[simp] theorem State.consumeRnd_st (s : State) : s.consumeRnd.st = s.st := by
  cases h : s.rndIn <;> simp [State.consumeRnd, h]
@[simp] theorem State.consumeRnd_fb (s : State) : s.consumeRnd.fb = s.fb := by
  cases h : s.rndIn <;> simp [State.consumeRnd, h]
@[simp] theorem State.consumeRnd_key (s : State) : s.consumeRnd.key = s.key := by
  cases h : s.rndIn <;> simp [State.consumeRnd, h]
@[simp] theorem State.consumeRnd_status (s : State) : s.consumeRnd.status = s.status := by
  cases h : s.rndIn <;> simp [State.consumeRnd, h]
@[simp] theorem State.consumeRnd_rndIn (s : State) : s.consumeRnd.rndIn = none := by
  cases h : s.rndIn <;> simp [State.consumeRnd, h]
theorem State.consumeRnd_draws (s : State) :
    s.consumeRnd.draws = if s.rndIn.isSome then s.draws else s.draws + 1 := by
  cases h : s.rndIn <;> simp [State.consumeRnd, h]

/-! ### registers after an update -/

theorem State.reg_setReg (s : State) (r q : RegNum) (b : Byte) :
    (s.setReg r b).reg q = if q = r then b else s.reg q := by
  by_cases h : q = r
  · subst h; simp [State.reg, State.setReg, Vector.get_eq_getElem]
  · have h' : r.val ≠ q.val := fun e => h (Fin.ext e.symm)
    simp [State.reg, State.setReg, Vector.get_eq_getElem, h, h']

@[simp] theorem State.reg_setReg_self (s : State) (r : RegNum) (b : Byte) : (s.setReg r b).reg r = b := by
  simp [State.reg_setReg]

theorem State.reg_setReg_other (s : State) (r q : RegNum) (b : Byte) (h : q ≠ r) :
    (s.setReg r b).reg q = s.reg q := by
  simp [State.reg_setReg, h]

theorem State.reg_setFlag (s : State) (f : Bool) (q : RegNum) :
    (s.setFlag f).reg q = if q = regVF then flagByte f else s.reg q := s.reg_setReg regVF q _

theorem State.reg_loadRegsTo (s : State) (x q : RegNum) :
    (s.loadRegsTo x).reg q = if q ≤ x then s.mem.read (s.address q.val) else s.reg q := by
  simp [State.reg, State.loadRegsTo, Vector.get_eq_getElem]

/-- A register is read from `v` alone, so an update that leaves `v` leaves every register. -/
theorem State.reg_congr {s t : State} (h : t.v = s.v) (q : RegNum) : t.reg q = s.reg q := by
  simp [State.reg, h]

@[simp] theorem State.reg_setPc (s : State) (w : Word) (q : RegNum) : (s.setPc w).reg q = s.reg q := rfl
@[simp] theorem State.reg_advance (s : State) (q : RegNum) : s.advance.reg q = s.reg q := rfl
@[simp] theorem State.reg_skipIf (s : State) (c : Bool) (q : RegNum) : (s.skipIf c).reg q = s.reg q := rfl
@[simp] theorem State.reg_setI (s : State) (w : Word) (q : RegNum) : (s.setI w).reg q = s.reg q := rfl
@[simp] theorem State.reg_setDt (s : State) (b : Byte) (q : RegNum) : (s.setDt b).reg q = s.reg q := rfl
@[simp] theorem State.reg_setSt (s : State) (b : Byte) (q : RegNum) : (s.setSt b).reg q = s.reg q := rfl
@[simp] theorem State.reg_halt (s : State) (c : Cause) (w : Word) (q : RegNum) : (s.halt c w).reg q = s.reg q := rfl
@[simp] theorem State.reg_tick (s : State) (q : RegNum) : s.tick.reg q = s.reg q := rfl
@[simp] theorem State.reg_store (s : State) (bs : List Byte) (q : RegNum) : (s.store bs).reg q = s.reg q := rfl
@[simp] theorem State.reg_consumeRnd (s : State) (q : RegNum) : s.consumeRnd.reg q = s.reg q :=
  State.reg_congr s.consumeRnd_v q

@[simp] theorem flagByte_toNat (f : Bool) : (flagByte f).toNat = if f then 1 else 0 := by
  cases f <;> rfl

end Sys2Proof.Machine
end

