-- ==== Sys2Proof/Laws/Ops.lean ====
section
/-! SUPPORT. One law for each shared operation: everything it can answer, so that a proof cites it and does not unfold the
operation. -/

namespace Sys2Proof.Machine

/-! ### the call stack -/

/-- A push with a free slot (R26, R93). -/
theorem State.push_of_lt (s : State) (w : Word) (h : s.sp.val < 16) :
    s.push w = some { s with stack := s.stack.set s.sp.val w h, sp := ⟨s.sp.val + 1, Nat.succ_lt_succ h⟩ } := by
  simp only [State.push, dif_pos h]

theorem State.push_none (s : State) (w : Word) : s.push w = none ↔ s.sp.val = 16 := by
  have := s.sp.isLt
  unfold State.push
  split
  · next h => exact ⟨(fun e => nomatch e), fun e => absurd h (by simp [e])⟩
  · next h => exact ⟨fun _ => by simp only [Config.stackDepth] at h; omega, fun _ => rfl⟩

/-- What a push answers when it answers a state (R26). -/
theorem State.push_some {s t : State} {w : Word} (h : s.push w = some t) :
    ∃ hk : s.sp.val < 16, t.sp.val = s.sp.val + 1 ∧ t.stack = s.stack.set s.sp.val w hk ∧
      t = { s with stack := t.stack, sp := t.sp } := by
  unfold State.push at h
  split at h
  · next hk => cases h; exact ⟨hk, rfl, rfl, rfl⟩
  · exact nomatch h

/-- A pop with an occupied slot (R26, R91). -/
theorem State.pop_of_pos (s : State) (h : 0 < s.sp.val) :
    s.pop = some (s.stack.get ⟨s.sp.val - 1, by omega⟩, { s with sp := ⟨s.sp.val - 1, by omega⟩ }) := by
  simp only [State.pop, dif_pos h]

theorem State.pop_none (s : State) : s.pop = none ↔ s.sp.val = 0 := by
  unfold State.pop
  split
  · next h => exact ⟨(fun e => nomatch e), fun e => absurd h (by simp [e])⟩
  · next h => exact ⟨fun _ => by omega, fun _ => rfl⟩

/-- What a pop answers when it answers a value: the top slot, which keeps its value (R26). -/
theorem State.pop_some {s t : State} {w : Word} (h : s.pop = some (w, t)) :
    ∃ k : Fin 16, k.val + 1 = s.sp.val ∧ w = s.stack.get k ∧ t.sp.val = k.val ∧ t = { s with sp := t.sp } := by
  unfold State.pop at h
  split at h
  · next hp => cases h; exact ⟨⟨s.sp.val - 1, by omega⟩, by simp only; omega, rfl, rfl, rfl⟩
  · exact nomatch h

/-! ### fetch -/

theorem State.fetch_of_le (s : State) (h : s.pc.toNat ≤ 0xFFE) :
    s.fetch = some (wordOfBytes (s.mem.read s.pc.toNat) (s.mem.read (s.pc.toNat + 1))) := by
  simp only [State.fetch, if_pos h]

theorem State.fetch_none (s : State) : s.fetch = none ↔ 0xFFE < s.pc.toNat := by
  unfold State.fetch
  split
  · next h => exact ⟨(fun e => nomatch e), fun e => absurd h (by omega)⟩
  · next h => exact ⟨fun _ => by omega, fun _ => rfl⟩

theorem State.fetch_some {s : State} {op : Word} (h : s.fetch = some op) :
    s.pc.toNat ≤ 0xFFE ∧ op = wordOfBytes (s.mem.read s.pc.toNat) (s.mem.read (s.pc.toNat + 1)) := by
  unfold State.fetch at h
  split at h
  · next hp => exact ⟨hp, (Option.some.inj h).symm⟩
  · exact nomatch h

/-! ### memory at I -/

theorem State.reaches_iff (s : State) (k : Nat) : s.reaches k = true ↔ s.i.toNat + k ≤ 0xFFF := by
  exact decide_eq_true_iff

/-- An access inside memory (R52). -/
theorem State.withAccess_of_le (s : State) (k : Nat) (m : Result) (h : s.i.toNat + k ≤ 0xFFF) :
    s.withAccess k m = m := by
  simp only [State.withAccess, (s.reaches_iff k).mpr h, if_true]

/-- An access that would leave memory (R63, R165). -/
theorem State.withAccess_of_gt (s : State) (k : Nat) (m : Result) (h : 0xFFF < s.i.toNat + k) :
    s.withAccess k m = .next (s.halt .addressFaultData s.i) := by
  have : ¬ s.reaches k = true := fun e => absurd ((s.reaches_iff k).mp e) (by omega)
  simp only [State.withAccess, if_neg this]
  rfl

theorem State.address_zero (s : State) : s.address 0 = s.i.toNat := rfl

theorem State.regsTo_length (s : State) (x : RegNum) : (s.regsTo x).length = x.val + 1 := by
  simp [State.regsTo]

/-- The k-th of the registers V0 to VX (R135). -/
theorem State.regsTo_getElem (s : State) (x : RegNum) (k : Nat) (h : k < (s.regsTo x).length) :
    (s.regsTo x)[k] = s.reg ⟨k, by rw [State.regsTo_length] at h; omega⟩ := by
  simp [State.regsTo, State.reg, Vector.get_eq_getElem]

theorem decimalDigits_length (b : Byte) : (decimalDigits b).length = 3 := rfl

/-! ### key latches -/

theorem State.latchOf_of_lt (s : State) (x : RegNum) (h : (s.reg x).toNat < 16) :
    s.latchOf x = some (s.key.get ⟨(s.reg x).toNat, h⟩) := by
  simp only [State.latchOf, dif_pos h]

theorem State.latchOf_none (s : State) (x : RegNum) : s.latchOf x = none ↔ 0xF < (s.reg x).toNat := by
  unfold State.latchOf
  split
  · next h => exact ⟨(fun e => nomatch e), fun e => absurd h (by omega)⟩
  · next h => exact ⟨fun _ => by omega, fun _ => rfl⟩

theorem mem_pressedKeys (k : Keys) (j : RegNum) : j ∈ pressedKeys k ↔ k.get j = true := by
  simp [pressedKeys]

/-- With no latch set there is no key to report (R153). -/
theorem keySelect_none (k : Keys) : keySelect k = none ↔ ∀ j, k.get j = false := by
  have hm := mem_pressedKeys k
  unfold keySelect
  split
  · next h => exact ⟨fun _ j => by simpa [h] using hm j, fun _ => rfl⟩
  · next j h => exact ⟨(fun e => nomatch e), fun e => by simpa [h, e j] using hm j⟩
  · next j js _ h => exact ⟨(fun e => nomatch e), fun e => by simpa [h, e j] using hm j⟩

/-- The key reported is a pressed one (R6, R153). -/
theorem keySelect_pressed {k : Keys} {j : RegNum} (h : keySelect k = some j) : k.get j = true := by
  rw [← mem_pressedKeys]
  unfold keySelect at h
  split at h
  · exact nomatch h
  · next j' hp => cases h; rw [hp]; exact List.mem_singleton_self _
  · next j' js _ hp =>
    rw [← Option.some.inj h, hp, List.getD_eq_getElem _ _ (by simpa using Nat.mod_lt _ (Nat.succ_pos js.length))]
    exact List.getElem_mem _

/-- "when exactly one latch is set it returns that index" (R153). -/
theorem keySelect_only (k : Keys) (j : RegNum) (h : ∀ q, k.get q = true ↔ q = j) : keySelect k = some j := by
  cases hs : keySelect k with
  | none => exact absurd ((h j).mpr rfl) (by simp [(keySelect_none k).mp hs j])
  | some q => rw [(h q).mp (keySelect_pressed hs)]

/-! ### pixels -/

/-- A toggle changes its own pixel and no other (R142). -/
theorem Frame.pixel_toggle (f : Frame) (px qx : Fin 64) (py qy : Fin 32) :
    (f.toggle px py).pixel qx qy = if qx = px ∧ qy = py then !f.pixel px py else f.pixel qx qy := by
  by_cases hy : qy = py
  · subst hy
    by_cases hx : qx = px
    · subst hx
      simp [Frame.pixel, Frame.toggle, Vector.get_eq_getElem]
    · have : px.val ≠ qx.val := fun e => hx (Fin.ext e.symm)
      simp [Frame.pixel, Frame.toggle, Vector.get_eq_getElem, hx, this]
  · have : py.val ≠ qy.val := fun e => hy (Fin.ext e.symm)
    simp [Frame.pixel, Frame.toggle, Vector.get_eq_getElem, hy, this]

theorem Frame.pixel_clear (px : Fin 64) (py : Fin 32) : Frame.clear.pixel px py = false := by
  simp [Frame.pixel, Frame.clear, Vector.get_eq_getElem]

/-- Two framebuffers with the same pixels are the same. -/
theorem Frame.ext_of_pixel (f g : Frame) (h : ∀ px py, f.pixel px py = g.pixel px py) : f = g := by
  refine Vector.ext fun j hj => Vector.ext fun k hk => ?_
  simpa [Frame.pixel, Vector.get_eq_getElem] using h ⟨k, hk⟩ ⟨j, hj⟩

/-! ### counters -/

theorem countDown_toNat (b : Byte) : (countDown b).toNat = b.toNat - 1 := by
  have := b.isLt
  by_cases h : b = 0
  · simp [countDown, h]
  · have h0 : b.toNat ≠ 0 := fun e => h (BitVec.eq_of_toNat_eq (by simpa using e))
    rw [countDown, if_neg h, BitVec.toNat_sub]
    simp
    omega

end Sys2Proof.Machine
end

