-- ==== Sys2Proof/Laws/Exec.lean ====
section
/-! SUPPORT. What one instruction and one step can do, said once: an instruction completes with `status` as it was or takes a
fatal condition and changes nothing else; a step of a running core is one of four cases. -/

namespace Sys2Proof.Machine

@[simp] theorem complete_eq (s : State) : complete s = .next s := rfl

@[simp] theorem raise_eq (c : Cause) (w : Word) (s : State) : raise c w s = .next (s.halt c w) := rfl

/-- An instruction completes and leaves `status`, or raises one condition (R36, R170). -/
def Ends (s : State) (r : Result) : Prop :=
  (∃ t, r = .next t ∧ t.status = s.status) ∨ ∃ c w, c ≠ Cause.none ∧ r = .next (s.halt c w)

theorem ends_complete {s t : State} (h : t.status = s.status) : Ends s (complete t) := .inl ⟨t, rfl, h⟩

theorem ends_raise {s : State} {c : Cause} (w : Word) (h : c ≠ .none) : Ends s (raise c w s) := .inr ⟨c, w, h, rfl⟩

theorem ends_withAccess {s : State} {k : Nat} {r : Result} (h : Ends s r) : Ends s (s.withAccess k r) := by
  unfold State.withAccess
  split
  · exact h
  · exact ends_raise _ (by decide)

/-- Every instruction, in every state, completes or raises one condition. -/
theorem exec_ends (i : Instr) (s : State) : Ends s (exec i s) := by
  cases i with
  | cls => exact ends_complete rfl
  | ret =>
    show Ends s (execRet s)
    unfold execRet
    split
    · next w t h =>
      obtain ⟨_, _, _, _, ht⟩ := State.pop_some h
      exact ends_complete (by rw [ht]; rfl)
    · exact ends_raise _ (by decide)
  | jp nnn => exact ends_complete rfl
  | call nnn =>
    show Ends s (execCall nnn s)
    unfold execCall
    split
    · next t h =>
      obtain ⟨_, _, _, ht⟩ := State.push_some h
      exact ends_complete (by rw [ht]; rfl)
    · exact ends_raise _ (by decide)
  | seImm x nn => exact ends_complete rfl
  | sneImm x nn => exact ends_complete rfl
  | seReg x y => exact ends_complete rfl
  | ldImm x nn => exact ends_complete rfl
  | addImm x nn => exact ends_complete rfl
  | ldReg x y => exact ends_complete rfl
  | orReg x y => exact ends_complete rfl
  | andReg x y => exact ends_complete rfl
  | xorReg x y => exact ends_complete rfl
  | addReg x y => exact ends_complete rfl
  | subReg x y => exact ends_complete rfl
  | shr x y => exact ends_complete rfl
  | subnReg x y => exact ends_complete rfl
  | shl x y => exact ends_complete rfl
  | sneReg x y => exact ends_complete rfl
  | ldI nnn => exact ends_complete rfl
  | jpV0 nnn => exact ends_complete rfl
  | rnd x nn => exact ends_complete (by simp)
  | drw x y n =>
    show Ends s (execDrw x y n s)
    unfold execDrw
    split
    · exact ends_complete rfl
    · exact ends_withAccess (ends_complete rfl)
  | skp x =>
    show Ends s (execSkp x s)
    unfold execSkp
    split
    · exact ends_complete rfl
    · exact ends_raise _ (by decide)
  | sknp x =>
    show Ends s (execSknp x s)
    unfold execSknp
    split
    · exact ends_complete rfl
    · exact ends_raise _ (by decide)
  | ldVxDt x => exact ends_complete rfl
  | ldVxK x =>
    show Ends s (execLdVxK x s)
    unfold execLdVxK
    split
    · exact .inl ⟨s, rfl, rfl⟩
    · exact ends_complete rfl
  | ldDtVx x => exact ends_complete rfl
  | ldStVx x => exact ends_complete rfl
  | addI x => exact ends_complete rfl
  | ldF x => exact ends_complete rfl
  | ldB x => exact ends_withAccess (ends_complete rfl)
  | storeRegs x => exact ends_withAccess (ends_complete rfl)
  | loadRegs x => exact ends_withAccess (ends_complete rfl)

/-- An instruction that took a running core to a running one left `status`; one that halted it changed nothing else. -/
theorem exec_status {i : Instr} {s t : State} (h : exec i s = .next t) :
    t.status = s.status ∨ ∃ c w, c ≠ Cause.none ∧ t = s.halt c w := by
  rcases exec_ends i s with ⟨u, hu, hs⟩ | ⟨c, w, hc, hu⟩
  · exact .inl (by rw [h] at hu; cases hu; exact hs)
  · exact .inr ⟨c, w, hc, by rw [h] at hu; cases hu; rfl⟩

theorem exec_next (i : Instr) (s : State) : ∃ t, exec i s = .next t := by
  rcases exec_ends i s with ⟨u, hu, _⟩ | ⟨c, w, _, hu⟩
  · exact ⟨u, hu⟩
  · exact ⟨_, hu⟩

/-! ### the step -/

theorem decode_ok {op : Word} {i : Instr} : decode op = .ok i ↔ decodeInstr op = some i := by
  unfold decode
  split
  · next j h => rw [h]; exact ⟨fun e => by cases e; rfl, fun e => by cases e; rfl⟩
  · next h => rw [h]; exact ⟨fun e => (nomatch e), fun e => (nomatch e)⟩

theorem decode_error {op : Word} {e : Reject} : decode op = .error e ↔ decodeInstr op = none ∧ e = .unknownOpcode op := by
  unfold decode
  split
  · next j h => rw [h]; exact ⟨fun e => (nomatch e), fun e => nomatch e.1⟩
  · next h => rw [h]; exact ⟨fun e => by cases e; exact ⟨rfl, rfl⟩, fun e => by rw [e.2]⟩

/-- The instruction at pc, in terms of what makes it one: a running core, a fetch and a legal word (R36). -/
theorem State.current_some {s : State} {i : Instr} :
    s.current = some i ↔ s.status.halted = false ∧ ∃ op, s.fetch = some op ∧ decode op = .ok i := by
  unfold State.current
  split
  · next h => exact ⟨fun e => (nomatch e), fun e => by rw [h] at e; exact nomatch e.1⟩
  · next h =>
    have h' : s.status.halted = false := by simpa using h
    split
    · next hf => exact ⟨fun e => (nomatch e), fun ⟨_, op, e, _⟩ => by rw [hf] at e; exact nomatch e⟩
    · next op hf =>
      exact ⟨fun e => ⟨h', op, hf, decode_ok.mpr e⟩,
        fun ⟨_, op', e, hd⟩ => by rw [hf] at e; cases e; exact decode_ok.mp hd⟩

/-- A step of a halted core (R38). -/
theorem cycle_halted (p : Config.TimerPolicy) {s : State} (h : s.status.halted = true) : cycle p s = .next s := by
  simp only [cycle, h, if_true]

/-- A step that has an instruction to run (R36). -/
theorem cycle_current (p : Config.TimerPolicy) {s : State} {i : Instr} (h : s.current = some i) :
    cycle p s = executePhase p i s := by
  obtain ⟨hs, op, hf, hd⟩ := State.current_some.mp h
  simp only [cycle, fetchPhase, decodePhase, hs, hf, hd, Bool.false_eq_true, if_false]

/-- EXECUTE and TIMER (R36, R176). -/
theorem executePhase_next (p : Config.TimerPolicy) {i : Instr} {s t : State} (h : exec i s = .next t) :
    executePhase p i s = .next (timerPhase p (reportOf i s t) t) := by
  simp only [executePhase, h]

/-- What a step can do: nothing in a halted core; AddressFault_fetch; UnknownOpcode; or the instruction at pc and the timer
phase (R36, R169). -/
theorem cycle_cases (p : Config.TimerPolicy) (s : State) :
    (s.status.halted = true ∧ cycle p s = .next s) ∨
    (s.status.halted = false ∧ 0xFFE < s.pc.toNat ∧ cycle p s = .next (s.halt .addressFaultFetch s.pc)) ∨
    (s.status.halted = false ∧ ∃ op, s.fetch = some op ∧ decodeInstr op = none ∧
      cycle p s = .next (s.halt .unknownOpcode op)) ∨
    ∃ i t, s.current = some i ∧ exec i s = .next t ∧ cycle p s = .next (timerPhase p (reportOf i s t) t) := by
  cases hs : s.status.halted with
  | true => exact .inl ⟨rfl, cycle_halted p hs⟩
  | false =>
    refine .inr ?_
    cases hf : s.fetch with
    | none =>
      refine .inl ⟨rfl, s.fetch_none.mp hf, ?_⟩
      simp only [cycle, fetchPhase, hs, hf, Bool.false_eq_true, if_false, raise_eq]
    | some op =>
      refine .inr ?_
      cases hd : decodeInstr op with
      | none =>
        refine .inl ⟨rfl, op, rfl, hd, ?_⟩
        simp only [cycle, fetchPhase, decodePhase, decode, hs, hf, hd, Bool.false_eq_true, if_false, raise_eq]
      | some i =>
        have hc : s.current = some i := State.current_some.mpr ⟨hs, op, hf, decode_ok.mpr hd⟩
        obtain ⟨t, ht⟩ := exec_next i s
        exact .inr ⟨i, t, hc, ht, by rw [cycle_current p hc, executePhase_next p ht]⟩

/-- The timer phase is a tick or nothing (R176). -/
theorem timerPhase_cases (p : Config.TimerPolicy) (r : Report) (t : State) :
    timerPhase p r t = t ∨ (p = .perStep ∧ r = .ok ∧ timerPhase p r t = t.tick) := by
  cases p <;> cases r <;> simp [timerPhase]

theorem timerPhase_status (p : Config.TimerPolicy) (r : Report) (t : State) : (timerPhase p r t).status = t.status := by
  rcases timerPhase_cases p r t with h | ⟨_, _, h⟩ <;> rw [h]
  rfl

@[simp] theorem timerTone_decoupled (r : Report) (t : State) : timerTone .decoupled r t = false := by
  cases r <;> rfl

/-- Only a step whose outcome is `Ok` fires a tone, and only under `per_step` (R176). -/
theorem timerTone_eq (p : Config.TimerPolicy) (r : Report) (t : State) :
    timerTone p r t = (decide (p = .perStep) && decide (r = .ok) && t.toneFired) := by
  cases p <;> cases r <;> simp [timerTone]

/-- The tone of a step that has an instruction to run (R176). -/
theorem stepTone_current (p : Config.TimerPolicy) {s t : State} {i : Instr} (hc : s.current = some i) (ht : exec i s = .next t) :
    stepTone p s = timerTone p (reportOf i s t) t := by
  simp only [stepTone, hc, ht]

/-- The outcome of a step that has an instruction to run (R37). -/
theorem stepReport_current (p : Config.TimerPolicy) {s t : State} {i : Instr} (hc : s.current = some i)
    (ht : exec i s = .next t) : stepReport p s = reportOf i s t := by
  simp only [stepReport, cycle_current p hc, executePhase_next p ht, timerPhase_status, reportOf, hc, Option.any_some]

@[simp] theorem stepTone_decoupled (s : State) : stepTone .decoupled s = false := by
  unfold stepTone
  split
  · rfl
  · split <;> simp

/-- A step that has no instruction to run fires no tone. -/
theorem stepTone_none (p : Config.TimerPolicy) {s : State} (h : s.current = none) : stepTone p s = false := by
  simp only [stepTone, h]

@[simp] theorem timerPhase_decoupled (r : Report) (t : State) : timerPhase .decoupled r t = t := by
  cases r <;> rfl

end Sys2Proof.Machine
end

