-- ==== Sys2Proof/Laws/PerInstr.lean ====
section
/-! SUPPORT. What holds of every instruction as syntax, one lemma for each constructor. Family LegalEncoding: the word that
`encode` gives an instruction is covered by the row of the opcode map (30_encoding.md R75) that bears its mnemonic. -/

namespace Sys2Proof.Laws.LegalEncoding

/-- The instruction's word belongs to the instruction's own row of the opcode map (R75). -/
def Statement (i : Instr) : Prop := ∃ r ∈ opcodeMap, r.mnemonic = i.mnemonic ∧ r.covers (encode i) = true

theorem cls : Statement (.cls) :=
  ⟨⟨"CLS", 0x00E0, 0xFFFF⟩, by decide, rfl, by decide⟩

theorem ret : Statement (.ret) :=
  ⟨⟨"RET", 0x00EE, 0xFFFF⟩, by decide, rfl, by decide⟩

theorem jp (nnn : Addr) : Statement (.jp nnn) :=
  ⟨⟨"JP_nnn", 0x1000, 0xF000⟩, by decide, rfl, covers_formatA _ _⟩

theorem call (nnn : Addr) : Statement (.call nnn) :=
  ⟨⟨"CALL_nnn", 0x2000, 0xF000⟩, by decide, rfl, covers_formatA _ _⟩

theorem seImm (x : RegNum) (nn : Byte) : Statement (.seImm x nn) :=
  ⟨⟨"SE_Vx__nn", 0x3000, 0xF000⟩, by decide, rfl, covers_formatXK _ _ _⟩

theorem sneImm (x : RegNum) (nn : Byte) : Statement (.sneImm x nn) :=
  ⟨⟨"SNE_Vx__nn", 0x4000, 0xF000⟩, by decide, rfl, covers_formatXK _ _ _⟩

theorem seReg (x y : RegNum) : Statement (.seReg x y) :=
  ⟨⟨"SE_Vx__Vy", 0x5000, 0xF00F⟩, by decide, rfl, covers_formatXY _ _ _ _⟩

theorem ldImm (x : RegNum) (nn : Byte) : Statement (.ldImm x nn) :=
  ⟨⟨"LD_Vx__nn", 0x6000, 0xF000⟩, by decide, rfl, covers_formatXK _ _ _⟩

theorem addImm (x : RegNum) (nn : Byte) : Statement (.addImm x nn) :=
  ⟨⟨"ADD_Vx__nn", 0x7000, 0xF000⟩, by decide, rfl, covers_formatXK _ _ _⟩

theorem ldReg (x y : RegNum) : Statement (.ldReg x y) :=
  ⟨⟨"LD_Vx__Vy", 0x8000, 0xF00F⟩, by decide, rfl, covers_formatXY _ _ _ _⟩

theorem orReg (x y : RegNum) : Statement (.orReg x y) :=
  ⟨⟨"OR_Vx__Vy", 0x8001, 0xF00F⟩, by decide, rfl, covers_formatXY _ _ _ _⟩

theorem andReg (x y : RegNum) : Statement (.andReg x y) :=
  ⟨⟨"AND_Vx__Vy", 0x8002, 0xF00F⟩, by decide, rfl, covers_formatXY _ _ _ _⟩

theorem xorReg (x y : RegNum) : Statement (.xorReg x y) :=
  ⟨⟨"XOR_Vx__Vy", 0x8003, 0xF00F⟩, by decide, rfl, covers_formatXY _ _ _ _⟩

theorem addReg (x y : RegNum) : Statement (.addReg x y) :=
  ⟨⟨"ADD_Vx__Vy", 0x8004, 0xF00F⟩, by decide, rfl, covers_formatXY _ _ _ _⟩

theorem subReg (x y : RegNum) : Statement (.subReg x y) :=
  ⟨⟨"SUB_Vx__Vy", 0x8005, 0xF00F⟩, by decide, rfl, covers_formatXY _ _ _ _⟩

theorem shr (x y : RegNum) : Statement (.shr x y) :=
  ⟨⟨"SHR_Vx", 0x8006, 0xF00F⟩, by decide, rfl, covers_formatXY _ _ _ _⟩

theorem subnReg (x y : RegNum) : Statement (.subnReg x y) :=
  ⟨⟨"SUBN_Vx__Vy", 0x8007, 0xF00F⟩, by decide, rfl, covers_formatXY _ _ _ _⟩

theorem shl (x y : RegNum) : Statement (.shl x y) :=
  ⟨⟨"SHL_Vx", 0x800E, 0xF00F⟩, by decide, rfl, covers_formatXY _ _ _ _⟩

theorem sneReg (x y : RegNum) : Statement (.sneReg x y) :=
  ⟨⟨"SNE_Vx__Vy", 0x9000, 0xF00F⟩, by decide, rfl, covers_formatXY _ _ _ _⟩

theorem ldI (nnn : Addr) : Statement (.ldI nnn) :=
  ⟨⟨"LD_I__nnn", 0xA000, 0xF000⟩, by decide, rfl, covers_formatA _ _⟩

theorem jpV0 (nnn : Addr) : Statement (.jpV0 nnn) :=
  ⟨⟨"JP_V0__nnn", 0xB000, 0xF000⟩, by decide, rfl, covers_formatA _ _⟩

theorem rnd (x : RegNum) (nn : Byte) : Statement (.rnd x nn) :=
  ⟨⟨"RND_Vx__nn", 0xC000, 0xF000⟩, by decide, rfl, covers_formatXK _ _ _⟩

theorem drw (x y : RegNum) (n : Nibble) : Statement (.drw x y n) :=
  ⟨⟨"DRW_Vx__Vy__n", 0xD000, 0xF000⟩, by decide, rfl, covers_formatXYN _ _ _ _⟩

theorem skp (x : RegNum) : Statement (.skp x) :=
  ⟨⟨"SKP_Vx", 0xE09E, 0xF0FF⟩, by decide, rfl, covers_formatX _ _ _⟩

theorem sknp (x : RegNum) : Statement (.sknp x) :=
  ⟨⟨"SKNP_Vx", 0xE0A1, 0xF0FF⟩, by decide, rfl, covers_formatX _ _ _⟩

theorem ldVxDt (x : RegNum) : Statement (.ldVxDt x) :=
  ⟨⟨"LD_Vx__DT", 0xF007, 0xF0FF⟩, by decide, rfl, covers_formatX _ _ _⟩

theorem ldVxK (x : RegNum) : Statement (.ldVxK x) :=
  ⟨⟨"LD_Vx__K", 0xF00A, 0xF0FF⟩, by decide, rfl, covers_formatX _ _ _⟩

theorem ldDtVx (x : RegNum) : Statement (.ldDtVx x) :=
  ⟨⟨"LD_DT__Vx", 0xF015, 0xF0FF⟩, by decide, rfl, covers_formatX _ _ _⟩

theorem ldStVx (x : RegNum) : Statement (.ldStVx x) :=
  ⟨⟨"LD_ST__Vx", 0xF018, 0xF0FF⟩, by decide, rfl, covers_formatX _ _ _⟩

theorem addI (x : RegNum) : Statement (.addI x) :=
  ⟨⟨"ADD_I__Vx", 0xF01E, 0xF0FF⟩, by decide, rfl, covers_formatX _ _ _⟩

theorem ldF (x : RegNum) : Statement (.ldF x) :=
  ⟨⟨"LD_F__Vx", 0xF029, 0xF0FF⟩, by decide, rfl, covers_formatX _ _ _⟩

theorem ldB (x : RegNum) : Statement (.ldB x) :=
  ⟨⟨"LD_B__Vx", 0xF033, 0xF0FF⟩, by decide, rfl, covers_formatX _ _ _⟩

theorem storeRegs (x : RegNum) : Statement (.storeRegs x) :=
  ⟨⟨"LD__I___Vx", 0xF055, 0xF0FF⟩, by decide, rfl, covers_formatX _ _ _⟩

theorem loadRegs (x : RegNum) : Statement (.loadRegs x) :=
  ⟨⟨"LD_Vx___I", 0xF065, 0xF0FF⟩, by decide, rfl, covers_formatX _ _ _⟩

end Sys2Proof.Laws.LegalEncoding
end

