-- ==== Sys2Proof/Tests/Slice0.lean ====
section
/-! SUPPORT. The model's own tests. Expected results come from the encodings of 30_encoding.md and from the vectors of
95_test_vectors.md, whose ids the comments name; then one witness for the hypotheses of every statement that has any. -/

open Sys2Proof Sys2Proof.Machine

namespace Sys2Proof.Tests

/-! ### the words that are refused -/

/-- X1, X2: class 0 has two words, and matches them whole. -/
theorem test_wf_class0 : [0x0000, 0x0200, 0x00C1, 0x00FD, 0x00FF, 0x00E1, 0x01E0, 0x0FEE].all
    (fun op : Word => !wellFormedWord op) = true := by decide

/-- X3: classes 5 and 9 need n = 0. -/
theorem test_wf_class5_9 : [0x5001, 0x5FFF, 0x9001].all (fun op : Word => !wellFormedWord op) = true := by decide

/-- X4: class 8, n outside 0 to 7 and E. -/
theorem test_wf_class8 : [0x8008, 0x8009, 0x800A, 0x800B, 0x800C, 0x800D, 0x800F].all
    (fun op : Word => !wellFormedWord op) = true := by decide

/-- X5: class E, nn outside 9E and A1. -/
theorem test_wf_classE : [0xE000, 0xE09F, 0xE19D].all (fun op : Word => !wellFormedWord op) = true := by decide

/-- X6: class F, nn outside the nine. -/
theorem test_wf_classF : [0xF000, 0xF002, 0xF01F, 0xF030, 0xF075, 0xF085, 0xFFFF].all
    (fun op : Word => !wellFormedWord op) = true := by decide

/-- X1 to X6: the decoder rejects them too, by name, with the raw word. -/
theorem test_decode_illegal : [0x0200, 0x00E1, 0x5001, 0x9001, 0x800D, 0xE09F, 0xF085, 0xFFFF].all
    (fun op : Word => decide (decode op = .error (.unknownOpcode op))) = true := by decide

/-- R70: one byte is no instruction. -/
theorem test_decode_truncated : decodeBytes [0x12] = .error .truncated := by decide

/-- R75, C1: 34 rows. -/
theorem test_map_rows : opcodeMap.length = 34 := by decide

/-- R76: two rows of the map never cover one word: on the bits both masks keep, their matches differ. -/
theorem test_map_disjoint :
    opcodeMap.Pairwise fun r q => (r.bits &&& (r.mask &&& q.mask)) ≠ (q.bits &&& (r.mask &&& q.mask)) := by decide

/-! ### one word of every instruction, written out from its encoding (R72, R75) -/

theorem test_decode_cls : decode 0x00E0 = .ok .cls := by decide
theorem test_decode_ret : decode 0x00EE = .ok .ret := by decide
theorem test_decode_jp : decode 0x1ABC = .ok (.jp 0xABC) := by decide
theorem test_decode_call : decode 0x2300 = .ok (.call 0x300) := by decide
theorem test_decode_seImm : decode 0x3F01 = .ok (.seImm 15 0x01) := by decide
theorem test_decode_sneImm : decode 0x4A10 = .ok (.sneImm 10 0x10) := by decide
theorem test_decode_seReg : decode 0x5120 = .ok (.seReg 1 2) := by decide
theorem test_decode_ldImm : decode 0x63AB = .ok (.ldImm 3 0xAB) := by decide
theorem test_decode_addImm : decode 0x7002 = .ok (.addImm 0 0x02) := by decide
theorem test_decode_ldReg : decode 0x8120 = .ok (.ldReg 1 2) := by decide
theorem test_decode_orReg : decode 0x8121 = .ok (.orReg 1 2) := by decide
theorem test_decode_andReg : decode 0x8122 = .ok (.andReg 1 2) := by decide
theorem test_decode_xorReg : decode 0x8123 = .ok (.xorReg 1 2) := by decide
theorem test_decode_addReg : decode 0x8124 = .ok (.addReg 1 2) := by decide
theorem test_decode_subReg : decode 0x8125 = .ok (.subReg 1 2) := by decide
theorem test_decode_shr : decode 0x8AB6 = .ok (.shr 10 11) := by decide
theorem test_decode_subnReg : decode 0x8127 = .ok (.subnReg 1 2) := by decide
theorem test_decode_shl : decode 0x8FFE = .ok (.shl 15 15) := by decide
theorem test_decode_sneReg : decode 0x9AB0 = .ok (.sneReg 10 11) := by decide
theorem test_decode_ldI : decode 0xA20C = .ok (.ldI 0x20C) := by decide
theorem test_decode_jpV0 : decode 0xBF80 = .ok (.jpV0 0xF80) := by decide
theorem test_decode_rnd : decode 0xC30F = .ok (.rnd 3 0x0F) := by decide
theorem test_decode_drw : decode 0xD125 = .ok (.drw 1 2 5) := by decide
theorem test_decode_skp : decode 0xE39E = .ok (.skp 3) := by decide
theorem test_decode_sknp : decode 0xE3A1 = .ok (.sknp 3) := by decide
theorem test_decode_ldVxDt : decode 0xF207 = .ok (.ldVxDt 2) := by decide
theorem test_decode_ldVxK : decode 0xF10A = .ok (.ldVxK 1) := by decide
theorem test_decode_ldDtVx : decode 0xF015 = .ok (.ldDtVx 0) := by decide
theorem test_decode_ldStVx : decode 0xF318 = .ok (.ldStVx 3) := by decide
theorem test_decode_addI : decode 0xFF1E = .ok (.addI 15) := by decide
theorem test_decode_ldF : decode 0xF029 = .ok (.ldF 0) := by decide
theorem test_decode_ldB : decode 0xFA33 = .ok (.ldB 10) := by decide
theorem test_decode_storeRegs : decode 0xF255 = .ok (.storeRegs 2) := by decide
theorem test_decode_loadRegs : decode 0xFA65 = .ok (.loadRegs 10) := by decide

/-- R70: the byte at the lower address is the high one, and the bytes behind stay. -/
theorem test_decode_bytes : decodeBytes [0x61, 0x03, 0x80] = .ok (.ldImm 1 0x03, [0x80]) := by decide

/-- R7: bit 0 of the table's numbering is the least significant bit of the word. -/
theorem test_decode_table_word : decodeTableWord 16 0xD125 = some (.drw 1 2 5) := by decide

/-! ### one step of one instruction: the vectors of 95_test_vectors.md -/

/-- The start state of the vectors: reset, with the word under test at 0x200. -/
def start (op : Word) : State := State.reset.placeWord op

/-- The same with the word, and pc, at another address. -/
def startAt (pc op : Word) : State := { State.reset with pc := pc }.placeWord op

/-- Some fields of a next state. -/
def look {α : Type} (r : Result) (f : State → α) : Option α :=
  match r with
  | .next t => some (f t)
  | .fault _ => none
  | .refused _ => none

/-- The columns and rows of the pixels that are 1. -/
def lit (s : State) : List (Nat × Nat) :=
  (List.finRange 32).flatMap fun py => ((List.finRange 64).filter fun px => s.fb.pixel px py).map fun px => (px.val, py.val)

def State.withPixel (s : State) (px : Fin 64) (py : Fin 32) : State := { s with fb := s.fb.toggle px py }
def State.withByte (s : State) (a : Nat) (b : Byte) : State := { s with mem := s.mem.write a b }
def State.withKey (s : State) (k : Fin 16) : State := { s with key := s.key.set k true }

/-- DR12 -/
theorem test_cls : look (step (State.withPixel (State.withPixel (start 0x00E0) 0 0) 63 31 |>.setReg 15 1))
    (fun t => (lit t, t.reg regVF, t.pc)) = some ([], 1, 0x202) := by decide
/-- F7 -/
theorem test_ret : look (step { startAt 0x300 0x00EE with sp := 16, stack := State.reset.stack.set 15 0x0ABC })
    (fun t => (t.sp.val, t.pc, t.stack[15])) = some (15, 0xABE, 0x0ABC) := by decide
/-- F5 -/
theorem test_ret_empty : look (step (start 0x00EE)) (fun t => (t.status, t.pc)) =
    some (⟨true, .stackUnderflow, 0x00EE⟩, 0x200) := by decide
/-- F1 -/
theorem test_jp : look (step (startAt 0x20A 0x1204)) (fun t => t.pc) = some 0x204 := by decide
/-- F3 -/
theorem test_call : look (step { start 0x2300 with sp := 15 }) (fun t => (t.sp.val, t.stack[15], t.pc)) =
    some (16, 0x0200, 0x300) := by decide
/-- F4 -/
theorem test_call_full : look (step { start 0x2300 with sp := 16 }) (fun t => (t.status, t.sp.val, t.pc)) =
    some (⟨true, .stackOverflow, 0x2300⟩, 16, 0x200) := by decide
/-- F9: no mask to 12 bits -/
theorem test_jpV0 : look (step ((start 0xBF80).setReg 0 0xFF)) (fun t => t.pc) = some 0x107F := by decide
/-- S1 -/
theorem test_seImm : look (step (startAt 0x208 0x3100)) (fun t => t.pc) = some 0x20C := by decide
/-- S2 -/
theorem test_seImm_falls : look (step ((startAt 0x208 0x3100).setReg 1 3)) (fun t => t.pc) = some 0x20A := by decide
/-- S3 -/
theorem test_sneImm : look (step ((startAt 0x300 0x4A10).setReg 10 0x11)) (fun t => t.pc) = some 0x304 := by decide
/-- S18: the skip leaves memory, which only the next fetch meets -/
theorem test_sneImm_top : look (step ((startAt 0xFFE 0x4000).setReg 0 1)) (fun t => t.pc) = some 0x1002 := by decide
/-- S6 -/
theorem test_seReg : look (step (((start 0x5120).setReg 1 7).setReg 2 8)) (fun t => t.pc) = some 0x202 := by decide
/-- S8 -/
theorem test_sneReg : look (step (((start 0x9120).setReg 1 7).setReg 2 8)) (fun t => t.pc) = some 0x204 := by decide
/-- S11 -/
theorem test_skp : look (step (State.withKey ((startAt 0x210 0xE39E).setReg 3 0xA) 10)) (fun t => t.pc) =
    some 0x214 := by decide
/-- S13: VX is not masked -/
theorem test_skp_above : look (step ((startAt 0x210 0xE39E).setReg 3 0x10)) (fun t => (t.status, t.pc)) =
    some (⟨true, .keyIndexFault, 0xE39E⟩, 0x210) := by decide
/-- S14 -/
theorem test_sknp : look (step (State.withKey ((startAt 0x210 0xE3A1).setReg 3 0xA) 10)) (fun t => t.pc) =
    some 0x212 := by decide
/-- A1 -/
theorem test_ldImm : look (step (start 0x6FFF)) (fun t => t.reg regVF) = some 0xFF := by decide
/-- A3, W2: wraps, and VF is left alone -/
theorem test_addImm : look (step (((start 0x7002).setReg 0 0xFF).setReg 15 1)) (fun t => (t.reg 0, t.reg regVF)) =
    some (1, 1) := by decide
/-- A5 -/
theorem test_ldReg : look (step ((start 0x8120).setReg 2 0x7E)) (fun t => t.reg 1) = some 0x7E := by decide
/-- A6 -/
theorem test_orReg : look (step ((((start 0x8121).setReg 1 0xF0).setReg 2 0x3C).setReg 15 7))
    (fun t => (t.reg 1, t.reg regVF)) = some (0xFC, 7) := by decide
/-- A7 -/
theorem test_andReg : look (step ((((start 0x8122).setReg 1 0xF0).setReg 2 0x3C).setReg 15 7))
    (fun t => (t.reg 1, t.reg regVF)) = some (0x30, 7) := by decide
/-- A8 -/
theorem test_xorReg : look (step ((((start 0x8123).setReg 1 0xF0).setReg 2 0x3C).setReg 15 7))
    (fun t => (t.reg 1, t.reg regVF)) = some (0xCC, 7) := by decide
/-- A10, W3 -/
theorem test_addReg : look (step (((start 0x8014).setReg 0 0xFF).setReg 1 1)) (fun t => (t.reg 0, t.reg regVF)) =
    some (0, 1) := by decide
/-- A16: the sum replaces the flag -/
theorem test_addReg_vf : look (step (((start 0x8F14).setReg 15 0xF0).setReg 1 0x20)) (fun t => t.reg regVF) =
    some 0x10 := by decide
/-- A18, W4 -/
theorem test_subReg : look (step ((((start 0x8125).setReg 1 1).setReg 2 2).setReg 15 1))
    (fun t => (t.reg 1, t.reg regVF)) = some (0xFF, 0) := by decide
/-- A20: equal operands do not borrow -/
theorem test_subReg_equal : look (step (((start 0x8125).setReg 1 0x10).setReg 2 0x10))
    (fun t => (t.reg 1, t.reg regVF)) = some (0, 1) := by decide
/-- A26: y is ignored -/
theorem test_shr : look (step (((start 0x81F6).setReg 1 5).setReg 15 9)) (fun t => (t.reg 1, t.reg regVF)) =
    some (2, 1) := by decide
/-- A30 -/
theorem test_shr_vf : look (step ((start 0x8F06).setReg 15 3)) (fun t => t.reg regVF) = some 1 := by decide
/-- A31 -/
theorem test_subnReg : look (step (((start 0x8127).setReg 1 3).setReg 2 0xA)) (fun t => (t.reg 1, t.reg regVF)) =
    some (7, 1) := by decide
/-- A35: the old VF is the minuend -/
theorem test_subnReg_vf : look (step (((start 0x81F7).setReg 1 5).setReg 15 1)) (fun t => (t.reg 1, t.reg regVF)) =
    some (0xFC, 0) := by decide
/-- A36 -/
theorem test_shl : look (step ((start 0x810E).setReg 1 0x81)) (fun t => (t.reg 1, t.reg regVF)) = some (2, 1) := by decide
/-- A37 -/
theorem test_shl_clears : look (step (((start 0x810E).setReg 1 0x40).setReg 15 1)) (fun t => (t.reg 1, t.reg regVF)) =
    some (0x80, 0) := by decide
/-- M2 -/
theorem test_ldI : look (step (start 0xAFFF)) (fun t => t.i) = some 0x0FFF := by decide
/-- M4: no flag, no mask -/
theorem test_addI : look (step ((start 0xF11E).setI 0x0FFF |>.setReg 1 1)) (fun t => (t.i, t.reg regVF)) =
    some (0x1000, 0) := by decide
/-- M5 -/
theorem test_addI_wraps : look (step ((start 0xF11E).setI 0xFFFF |>.setReg 1 2)) (fun t => t.i) = some 1 := by decide
/-- M8 -/
theorem test_ldF : look (step ((start 0xF029).setReg 0 0x0F)) (fun t => t.i) = some 0x4B := by decide
/-- M10: VX is not masked -/
theorem test_ldF_above : look (step ((start 0xF029).setReg 0 0xFF)) (fun t => t.i) = some 0x4FB := by decide
/-- M11 -/
theorem test_ldB : look (step ((start 0xFA33).setI 0x300 |>.setReg 10 0x9C))
    (fun t => (t.mem.readBytes 0x300 3, t.i, t.reg 10)) = some ([1, 5, 6], 0x300, 0x9C) := by decide
/-- M15: nothing is written -/
theorem test_ldB_beyond : look (step ((start 0xF033).setI 0xFFE |>.setReg 0 0x64))
    (fun t => (t.status, t.mem.readBytes 0xFFE 2, t.pc)) =
    some (⟨true, .addressFaultData, 0xFFE⟩, [0, 0], 0x200) := by decide
/-- M17: I stays, V3 is not stored -/
theorem test_storeRegs :
    look (step ((start 0xF255).setI 0x400 |>.setReg 0 1 |>.setReg 1 5 |>.setReg 2 6 |>.setReg 3 9))
      (fun t => (t.mem.readBytes 0x400 4, t.i)) = some ([1, 5, 6, 0], 0x400) := by decide
/-- M20: the top of memory -/
theorem test_storeRegs_top : look (step ((start 0xF055).setI 0xFFF |>.setReg 0 0xAB)) (fun t => t.mem.read 0xFFF) =
    some 0xAB := by decide
/-- M21 -/
theorem test_loadRegs :
    look (step (State.withByte (State.withByte (State.withByte (start 0xF265) 0x300 1) 0x301 5) 0x302 6
      |>.setI 0x300 |>.setReg 3 0x77)) (fun t => (t.reg 0, t.reg 1, t.reg 2, t.reg 3, t.i)) =
    some (1, 5, 6, 0x77, 0x300) := by decide
/-- M23: no partial load -/
theorem test_loadRegs_beyond : look (step ((start 0xF165).setI 0xFFF |>.setReg 0 3 |>.setReg 1 4))
    (fun t => (t.status, t.reg 0, t.reg 1)) = some (⟨true, .addressFaultData, 0xFFF⟩, 3, 4) := by decide

/-- The state of DR1 and DR2, with the word under test at 0x200. -/
def corner (op : Word) : State :=
  State.withByte (State.withByte (start op) 0x20C 0xF0) 0x20D 0x81 |>.setI 0x20C |>.setReg 0 0x3C |>.setReg 1 0x1F

/-- DR2: both edges wrap, pixel by pixel -/
theorem test_drw : look (step (corner 0xD012)) (fun t => (lit t, t.reg regVF)) =
    some ([(3, 0), (60, 0), (60, 31), (61, 31), (62, 31), (63, 31)], 0) := by decide
/-- DR3: a collision -/
theorem test_drw_collision : look (step (State.withPixel (State.withPixel (corner 0xD011) 63 31) 5 5))
    (fun t => (lit t, t.reg regVF)) = some ([(5, 5), (60, 31), (61, 31), (62, 31)], 1) := by decide
/-- T1 -/
theorem test_rnd : look (stepRnd Config.timerPolicy 0xA7 (start 0xC30F)) (fun t => (t.reg 3, t.rndIn)) =
    some (7, none) := by decide
/-- T4 -/
theorem test_ldVxDt : look (step ((start 0xF207).setDt 6)) (fun t => (t.reg 2, t.dt)) = some (6, 6) := by decide
/-- T5 -/
theorem test_ldDtVx : look (step ((start 0xF015).setReg 0 0xA)) (fun t => t.dt) = some 0xA := by decide
/-- T6 -/
theorem test_ldStVx : look (step ((start 0xF318).setReg 3 2)) (fun t => (t.st, t.toneActive)) = some (2, true) := by decide
/-- T8: nothing changes, the outcome is Waiting -/
theorem test_ldVxK_waits : look (step (startAt 0x204 0xF10A)) id = some (startAt 0x204 0xF10A) ∧
    stepReport Config.timerPolicy (startAt 0x204 0xF10A) = .waiting := by decide
/-- T9 -/
theorem test_ldVxK : look (step (State.withKey (startAt 0x204 0xF10A) 7)) (fun t => (t.reg 1, t.pc, t.key[7])) =
    some (7, 0x206, true) := by decide

/-- DR13, whose premise is the customary font: the glyph 3 across a corner -/
theorem test_font_glyph (h : Config.font.toList = Config.customaryFont) :
    State.reset.mem.readBytes 0x00F 5 = [0xF0, 0x10, 0xF0, 0x10, 0xF0] := by
  have e : ∀ k (hk : k < 80), Config.font[k] = Config.customaryFont[k]'(by rw [← h]; simpa using hk) := by
    intro k hk
    simp [← h]
  simp only [Memory.readBytes, List.range, List.range.loop, List.map, Memory.read, State.reset, Memory.lookup,
    Option.getD, unlisted, Config.fontSize]
  simp [e, Config.customaryFont]

/-! ### events -/

/-- Z1, W8: reset from a halted, disturbed state. -/
theorem test_reset_event :
    look (react Config.timerPolicy .reset ((corner 0xD012).setDt 9 |>.halt .stackOverflow 0x2300))
      (fun t => (t.status, t.pc, t.reg 0, t.dt, t.mem.read 0x20C)) =
    some (⟨false, .none, 0⟩, 0x200, 0, 0, 0) := by decide

/-- R174: the tick from 1 to 0 fires the tone. -/
theorem test_tick : look (react Config.timerPolicy .tick ((State.reset.setDt 6).setSt 1)) (fun t => (t.dt, t.st)) =
    some (5, 0) ∧ output Config.timerPolicy .tick ((State.reset.setDt 6).setSt 1) = .toneFired true := by decide

/-- R176: under `per_step` the tick follows the instruction that loads the timer. -/
theorem test_per_step : look (cycle .perStep ((start 0xF015).setReg 0 0xA)) (fun t => t.dt) = some 9 := by decide

/-- R176, R155: under `per_step` the tick after FX18 with VX = 1 fires the tone in that very step, and under `decoupled` the step
fires none. -/
theorem test_step_tone :
    output .perStep (.step 0) ((start 0xF318).setReg 3 1) = .outcome .ok true ∧
    output .decoupled (.step 0) ((start 0xF318).setReg 3 1) = .outcome .ok false := by decide

/-- R193: a program of two bytes. -/
theorem test_launch : (launch [0x12, 0x00]).map (fun t => (t.mem, t.pc)) = some ([(0x200, 0x12)], 0x200) := by decide

/-- R32: the register as the host reads it after UnknownOpcode. -/
theorem test_status_code : look (step State.reset) State.readStatus = some (1, 1, 0x0000) := by decide

/-- R206: a loader write after the first step is no move of the host's. -/
theorem test_boot_order : admissible .decoupled .off [.reset, .hostWriteMem 0 0x12, .step 0, .hostWriteMem 1 0] = false ∧
    admissible .decoupled .off [.reset, .hostWriteMem 0 0x12, .step 0, .tick] = true := by decide

/-! ### witnesses: a concrete state and operands for the hypotheses of every statement, each clause at a boundary -/

theorem witness_EncodeOfDecode : decode 0xFA65 = .ok (.loadRegs 10) := by decide

theorem witness_OpcodeMapIsTheDecoder : (⟨"SHL_Vx", 0x800E, 0xF00F⟩ : OpcodeRow) ∈ opcodeMap := by decide

/-- pc at 0x200, and at 0xFFE, the last address a word can be fetched from. -/
theorem witness_StepRunsDecodedInstruction :
    ((start 0x632A).status.halted = false ∧ (start 0x632A).pc.toNat ≤ 0xFFE ∧
      decode (wordOfBytes ((start 0x632A).mem.read (start 0x632A).pc.toNat)
        ((start 0x632A).mem.read ((start 0x632A).pc.toNat + 1))) = .ok (.ldImm 3 0x2A)) ∧
    ((startAt 0xFFE 0x6001).status.halted = false ∧ (startAt 0xFFE 0x6001).pc.toNat ≤ 0xFFE ∧
      decode (wordOfBytes ((startAt 0xFFE 0x6001).mem.read (startAt 0xFFE 0x6001).pc.toNat)
        ((startAt 0xFFE 0x6001).mem.read ((startAt 0xFFE 0x6001).pc.toNat + 1))) = .ok (.ldImm 0 0x01)) := by decide

theorem witness_PlacedWordRuns : State.reset.status.halted = false ∧ State.reset.pc.toNat ≤ 0xFFE := by decide

/-- A halted core. -/
def halted : State := State.reset.halt .stackUnderflow 0x00EE

theorem witness_HaltedStepChangesNothing : halted.status.halted = true := by decide

/-- pc = 0xFFF, the first address above, and 0x10FE, the highest pc of R41. -/
theorem witness_FetchOutsideMemoryHalts :
    (({ State.reset with pc := 0xFFF } : State).status.halted = false ∧
      0xFFE < ({ State.reset with pc := 0xFFF } : State).pc.toNat) ∧
    (({ State.reset with pc := 0x10FE } : State).status.halted = false ∧
      0xFFE < ({ State.reset with pc := 0x10FE } : State).pc.toNat) := by decide

theorem witness_IllegalWordHalts :
    (start 0x8008).status.halted = false ∧ (start 0x8008).pc.toNat ≤ 0xFFE ∧
    0x8008 = wordOfBytes ((start 0x8008).mem.read (start 0x8008).pc.toNat)
      ((start 0x8008).mem.read ((start 0x8008).pc.toNat + 1)) ∧ illegalByClass 0x8008 :=
  ⟨by decide, by decide, by decide, .inr (.inr (.inl (by decide)))⟩

/-- Both sides of the equivalence. -/
theorem witness_WaitingStepChangesNothing :
    (startAt 0x204 0xF10A).current = some (.ldVxK 1) ∧ (∀ k, (startAt 0x204 0xF10A).key.get k = false) ∧
    stepReport .perStep (startAt 0x204 0xF10A) = .waiting := by decide

theorem witness_PerStepTicksAfterOk :
    (start 0xF015).current = some (.ldDtVx 0) ∧ ∃ t, exec (.ldDtVx 0) (start 0xF015) = .next t :=
  ⟨by decide, _, rfl⟩

/-- The last free slot, and the first. -/
theorem witness_CallPushesItsAddress : ({ State.reset with sp := 15 } : State).sp.val < 16 ∧ State.reset.sp.val < 16 := by
  decide

/-- One slot occupied, and all. -/
theorem witness_ReturnPops :
    0 < ({ State.reset with sp := 1 } : State).sp.val ∧ 0 < ({ State.reset with sp := 16 } : State).sp.val := by decide

theorem witness_CallThenReturn : ({ State.reset with sp := 15 } : State).sp.val < 16 := by decide

theorem witness_StackLimitsHalt : ({ State.reset with sp := 16 } : State).sp.val = 16 ∧ State.reset.sp.val = 0 := by decide

/-- The first n that is not 0, and the last. -/
theorem witness_SkipResults : (1 : Nibble) ≠ 0 ∧ (15 : Nibble) ≠ 0 := by decide

/-- VX = 0 and VX = 0xF. -/
theorem witness_KeySkipResults :
    (State.reset.reg 3).toNat = (0 : Fin 16).val ∧ ((State.reset.setReg 3 0xF).reg 3).toNat = (15 : Fin 16).val := by decide

/-- VX = 0x10 and VX = 0xFF. -/
theorem witness_KeyIndexAboveFHalts :
    0xF < ((State.reset.setReg 3 0x10).reg 3).toNat ∧ 0xF < ((State.reset.setReg 3 0xFF).reg 3).toNat := by decide

/-- The highest I for FX33. -/
theorem witness_DecimalStoreResult : (State.reset.setI 0xFFD).i.toNat + 2 ≤ 0xFFF := by decide

/-- The highest I for 16 registers, and for one. -/
theorem witness_RegisterStoreResult :
    (State.reset.setI 0xFF0).i.toNat + (15 : RegNum).val ≤ 0xFFF ∧ (State.reset.setI 0xFFF).i.toNat + (0 : RegNum).val ≤ 0xFFF := by
  decide

theorem witness_RegisterLoadResult :
    (State.reset.setI 0xFF0).i.toNat + (15 : RegNum).val ≤ 0xFFF ∧ (State.reset.setI 0xFFF).i.toNat + (0 : RegNum).val ≤ 0xFFF := by
  decide

/-- Each clause at the first I that is too high: FX33, FX55 and FX65 with x = 0xF and x = 0, DXYN with n = 15 and n = 1. -/
theorem witness_AccessBeyondMemoryHalts :
    0xFFF < (State.reset.setI 0xFFE).i.toNat + 2 ∧
    0xFFF < (State.reset.setI 0xFF1).i.toNat + (15 : RegNum).val ∧ 0xFFF < (State.reset.setI 0x1000).i.toNat + (0 : RegNum).val ∧
    (1 ≤ (15 : Nibble).toNat ∧ 0xFFF < (State.reset.setI 0xFF2).i.toNat + ((15 : Nibble).toNat - 1)) ∧
    (1 ≤ (1 : Nibble).toNat ∧ 0xFFF < (State.reset.setI 0x1000).i.toNat + ((1 : Nibble).toNat - 1)) := by decide

theorem witness_StoredOpcodeIsFetchedNext :
    (State.reset.setI 0x202).i.toNat + (1 : RegNum).val ≤ 0xFFF ∧ (0 : RegNum) < 1 ∧
    ((State.reset.setI 0x202).pc + 2).toNat = (State.reset.setI 0x202).address (0 : RegNum).val := by decide

/-- n = 0 with I outside memory, and 15 rows that end at 0xFFF. -/
theorem witness_DrawResult :
    ((0 : Nibble) = 0 ∨ (State.reset.setI 0xFFFF).i.toNat + ((0 : Nibble).toNat - 1) ≤ 0xFFF) ∧
    ((15 : Nibble) = 0 ∨ (State.reset.setI 0xFF1).i.toNat + ((15 : Nibble).toNat - 1) ≤ 0xFFF) := by decide

/-- The two draws of P4. -/
theorem witness_DrawTwiceRestores :
    ∃ t, exec (.drw 0 1 2) (corner 0xD012) = .next t ∧ t.status = (corner 0xD012).status ∧
      (corner 0xD012).status.halted = false ∧ t.reg 0 = (corner 0xD012).reg 0 ∧ t.reg 1 = (corner 0xD012).reg 1 :=
  ⟨(corner 0xD012).drawn ((corner 0xD012).drawing 0 1 2), rfl, by decide, by decide, by decide, by decide⟩

/-- The framebuffer of P4 is clear before the first draw. -/
theorem witness_DrawTwiceRestores_clear : ∀ px py, (corner 0xD012).fb.pixel px py = false := fun px py =>
  Frame.pixel_clear px py

theorem witness_RandomByteResult : State.reset.rndIn = none := by decide

/-- No latch; the latch F alone; two latches. -/
theorem witness_KeyWaitResult :
    (∀ k, State.reset.key.get k = false) ∧
    ((State.withKey State.reset 15).key.get 15 = true ∧ ∀ q, (State.withKey State.reset 15).key.get q = true → q = 15) ∧
    ((State.withKey (State.withKey State.reset 3) 9).key.get 3 = true ∧
      (State.withKey (State.withKey State.reset 3) 9).key.get 9 = true) := by decide

theorem witness_StepsLeaveTimersAlone :
    (start 0xF015).current = some (.ldDtVx 0) ∧ (∃ t, step (start 0xF015) = .next t) ∧
    (start 0xF318).current = some (.ldStVx 3) ∧ ∃ t, step (start 0xF318) = .next t :=
  ⟨by decide, ⟨_, rfl⟩, by decide, ⟨_, rfl⟩⟩

theorem witness_FatalStepChangesOnlyStatus :
    ∃ t, cycle .perStep (start 0x00EE) = .next t ∧ (start 0x00EE).status.halted = false ∧ t.status.halted = true :=
  ⟨(start 0x00EE).halt .stackUnderflow 0x00EE, rfl, by decide, by decide⟩

/-- One state for each of the four cases, at the first value that raises. -/
theorem witness_OnlyNamedInstructionsRaise :
    (∃ t, exec (.call 0x300) { State.reset with sp := 16 } = .next t ∧ t.status.halted = true) ∧
    (∃ t, exec .ret State.reset = .next t ∧ t.status.halted = true) ∧
    (∃ t, exec (.ldB 0) (State.reset.setI 0xFFE) = .next t ∧ t.status.halted = true) ∧
    (∃ t, exec (.storeRegs 15) (State.reset.setI 0xFF1) = .next t ∧ t.status.halted = true) ∧
    (∃ t, exec (.drw 0 1 15) (State.reset.setI 0xFF2) = .next t ∧ t.status.halted = true) ∧
    (∃ t, exec (.skp 3) (State.reset.setReg 3 0x10) = .next t ∧ t.status.halted = true) :=
  ⟨⟨_, rfl, rfl⟩, ⟨_, rfl, rfl⟩, ⟨_, rfl, rfl⟩, ⟨_, rfl, rfl⟩, ⟨_, rfl, rfl⟩, ⟨_, rfl, rfl⟩⟩

/-- A tick and a step of a halted core, and a key event of a running one. -/
theorem witness_OnlyResetLeavesHalt :
    (∃ t, react .decoupled .tick halted = .next t) ∧ (∃ t, react .decoupled (.step 0) halted = .next t) ∧
    halted.status.halted = true ∧
    (∃ t, react .decoupled (.hostSetKeys (Vector.replicate 16 true)) State.reset = .next t) ∧
    ∀ r, Event.hostSetKeys (Vector.replicate 16 true) ≠ .step r :=
  ⟨⟨_, rfl⟩, ⟨_, rfl⟩, rfl, ⟨_, rfl⟩, fun _ h => nomatch h⟩

/-- The longest ROM that loads, and the shortest that does not. -/
theorem witness_LaunchStateHoldsTheRom :
    (List.replicate 3584 (0 : Byte)).length ≤ 3584 ∧ 3584 < (List.replicate 3585 (0 : Byte)).length := by
  simp only [List.length_replicate]
  decide

/-- A running state of the invariant with a word in memory, at the highest pc that fetches, and a slot in use. -/
theorem witness_StepKeepsInvariant :
    State.Inv { startAt 0xFFE 0xBF80 with sp := 1, stack := State.reset.stack.set 0 0xFFE } ∧
    ∃ t, cycle .perStep { startAt 0xFFE 0xBF80 with sp := 1, stack := State.reset.stack.set 0 0xFFE } = .next t :=
  ⟨⟨by decide, by decide, by decide, by decide, by decide⟩, ⟨_, rfl⟩⟩

/-- A run of two events from a halted state. -/
theorem witness_ReachableStatesMeetInvariant : Reachable .decoupled (State.reset.setKeys (Vector.replicate 16 true)) :=
  ⟨halted, [.reset, .hostSetKeys (Vector.replicate 16 true)], by decide, by decide, rfl⟩

/-- Reset, a program of one instruction, a step that ticks and a step that halts. -/
theorem witness_PerStepIsAnInterleaving :
    admissible .perStep .off [.reset, .hostWriteMem 0 0xF0, .hostWriteMem 1 0x15, .step 0x5C, .step 0] = true ∧
    withTicks [.reset, .hostWriteMem 0 0xF0, .hostWriteMem 1 0x15, .step 0x5C, .step 0] State.reset =
      [.reset, .hostWriteMem 0 0xF0, .hostWriteMem 1 0x15, .step 0x5C, .tick, .step 0] := by decide

/-- Both forms of a jump to itself. -/
theorem witness_AtRestIffSelfJump :
    (start 0x1200).rndIn = none ∧ ((start 0x1200).current = some (.jp 0x200) ∧ (0x200 : Addr).toNat = (start 0x1200).pc.toNat) ∧
    (((start 0xB1F0).setReg 0 0x10).current = some (.jpV0 0x1F0) ∧
      (0x1F0 : Addr).toNat + (((start 0xB1F0).setReg 0 0x10).reg 0).toNat = ((start 0xB1F0).setReg 0 0x10).pc.toNat) := by decide

/-- A store, a flag instruction and a draw that each go to a next state. -/
theorem witness_AccessMatrixFrame :
    (∃ t, exec (.storeRegs 2) (State.reset.setI 0x400) = .next t) ∧ (∃ t, exec (.addReg 0 1) State.reset = .next t) ∧
    ∃ t, exec (.drw 0 1 2) (corner 0xD012) = .next t :=
  ⟨⟨_, rfl⟩, ⟨_, rfl⟩, ⟨_, rfl⟩⟩

theorem witness_KeysReadByKeyInstructionsOnly :
    ¬ readsKeys (.call 0x300) ∧ ∃ t, exec (.call 0x300) State.reset = .next t :=
  ⟨by simp [readsKeys], ⟨_, rfl⟩⟩

theorem witness_TimersReadByFx07Only :
    (∀ x, Instr.ldDtVx 0 ≠ .ldVxDt x) ∧ ∃ t, exec (.ldDtVx 0) State.reset = .next t :=
  ⟨(fun _ h => nomatch h), ⟨_, rfl⟩⟩

/-- FX18 at pc, with the sound timer at 1. -/
theorem witness_TimerInstructionResults : ((start 0xF318).setSt 1).current = some (.ldStVx 3) := by decide

/-- An `Ok` step that leaves ST = 1, a waiting one and one of a halted core. -/
theorem witness_StepToneResult :
    stepReport .decoupled (((start 0xF318).setReg 3 1).supplyRnd 0) = .ok ∧
    stepReport .decoupled ((startAt 0x204 0xF10A).supplyRnd 0) = .waiting ∧
    stepReport .decoupled (halted.supplyRnd 0) = .fault .stackUnderflow 0x00EE := by decide

/-- Each condition at the first value that raises it, a step that raises none, and a halted core. -/
theorem witness_StatusAsTheHostReads :
    halted.status.halted = true ∧
    ((start 0x6005).status = Status.running ∧ ∃ t, cycle .perStep (start 0x6005) = .next t ∧ t.status.halted = false) ∧
    (({ State.reset with pc := 0xFFF } : State).status = Status.running ∧
      0xFFE < ({ State.reset with pc := 0xFFF } : State).pc.toNat) ∧
    ((start 0x8008).status = Status.running ∧ (start 0x8008).fetch = some 0x8008 ∧ illegalByClass 0x8008) :=
  ⟨by decide, ⟨by decide, _, rfl, rfl⟩, by decide, by decide, by decide, .inr (.inr (.inl (by decide)))⟩

/-- The conditions of EXECUTE. -/
theorem witness_StatusAsTheHostReads_execute :
    (({ start 0x2300 with sp := 16 } : State).status = Status.running ∧
      ({ start 0x2300 with sp := 16 } : State).fetch = some 0x2300 ∧
      ({ start 0x2300 with sp := 16 } : State).current = some (.call 0x300) ∧ ({ start 0x2300 with sp := 16 } : State).sp.val = 16) ∧
    ((start 0x00EE).current = some .ret ∧ (start 0x00EE).sp.val = 0) ∧
    (((start 0xF033).setI 0xFFE).current = some (.ldB 0) ∧ 0xFFF < ((start 0xF033).setI 0xFFE).i.toNat + 2) ∧
    (((start 0xFF55).setI 0xFF1).current = some (.storeRegs 15) ∧ 0xFFF < ((start 0xFF55).setI 0xFF1).i.toNat + (15 : RegNum).val) ∧
    (((start 0xF065).setI 0x1000).current = some (.loadRegs 0) ∧ 0xFFF < ((start 0xF065).setI 0x1000).i.toNat + (0 : RegNum).val) ∧
    (((start 0xD01F).setI 0xFF2).current = some (.drw 0 1 15) ∧ 1 ≤ (15 : Nibble).toNat ∧
      0xFFF < ((start 0xD01F).setI 0xFF2).i.toNat + ((15 : Nibble).toNat - 1)) ∧
    (((start 0xE39E).setReg 3 0x10).fetch = some 0xE39E ∧ ((start 0xE39E).setReg 3 0x10).current = some (.skp 3) ∧
      0xF < (((start 0xE39E).setReg 3 0x10).reg 3).toNat) ∧
    (((start 0xE3A1).setReg 3 0xFF).fetch = some 0xE3A1 ∧ ((start 0xE3A1).setReg 3 0xFF).current = some (.sknp 3) ∧
      0xF < (((start 0xE3A1).setReg 3 0xFF).reg 3).toNat) := by decide

end Sys2Proof.Tests
end

/-! The decoder against the encoder and against R76: a word that decodes is the word of its instruction, and a word of an
illegal class decodes to nothing. -/

namespace Sys2Proof

/-! ### the word of a decoded instruction -/

theorem formatA_of_fields {op : Word} {c : Nibble} (hc : (fieldClass op).toNat = c.toNat) :
    formatA c (fieldNNN op) = op := by
  rw [← BitVec.eq_of_toNat_eq hc]
  exact (word_eq_formatA op).symm

theorem formatXK_of_fields {op : Word} {c : Nibble} {nn : Byte} (hc : (fieldClass op).toNat = c.toNat)
    (hn : (fieldNN op).toNat = nn.toNat) : formatXK c (fieldX op) nn = op := by
  rw [← BitVec.eq_of_toNat_eq hc, ← BitVec.eq_of_toNat_eq hn]
  exact (word_eq_formatXK op).symm

theorem formatXYN_of_fields {op : Word} {c n : Nibble} (hc : (fieldClass op).toNat = c.toNat)
    (hn : (fieldN op).toNat = n.toNat) : formatXYN c (fieldX op) (fieldY op) n = op := by
  rw [← BitVec.eq_of_toNat_eq hc, ← BitVec.eq_of_toNat_eq hn]
  exact (word_eq_formatXYN op).symm

theorem encode_of_decodeClass0 {op : Word} {i : Instr} (h : decodeClass0 op = some i) : encode i = op := by
  unfold decodeClass0 at h
  split at h
  next hop => cases h; exact hop.symm
  split at h
  next hop => cases h; exact hop.symm
  exact nomatch h

theorem encode_of_decodeClass8 {op : Word} {i : Instr} (hc : (fieldClass op).toNat = 0x8)
    (h : decodeClass8 (fieldN op).toNat (fieldX op) (fieldY op) = some i) : encode i = op := by
  unfold decodeClass8 at h
  split at h <;> cases h
  all_goals next hn => exact formatXYN_of_fields hc hn

theorem encode_of_decodeClassE {op : Word} {i : Instr} (hc : (fieldClass op).toNat = 0xE)
    (h : decodeClassE (fieldNN op).toNat (fieldX op) = some i) : encode i = op := by
  unfold decodeClassE at h
  split at h <;> cases h
  all_goals next hn => exact formatXK_of_fields hc hn

theorem encode_of_decodeClassF {op : Word} {i : Instr} (hc : (fieldClass op).toNat = 0xF)
    (h : decodeClassF (fieldNN op).toNat (fieldX op) = some i) : encode i = op := by
  unfold decodeClassF at h
  split at h <;> cases h
  all_goals next hn => exact formatXK_of_fields hc hn

/-- A word that decodes is the word of its instruction (log entry 19). The arms h_1 to h_16 are the classes 0 to F. -/
theorem encode_of_decodeInstr {op : Word} {i : Instr} (h : decodeInstr op = some i) : encode i = op := by
  simp only [decodeInstr] at h
  split at h
  case h_1 => exact encode_of_decodeClass0 h
  case h_9 hc => exact encode_of_decodeClass8 hc h
  case h_15 hc => exact encode_of_decodeClassE hc h
  case h_16 hc => exact encode_of_decodeClassF hc h
  case h_2 hc | h_3 hc | h_11 hc | h_12 hc => cases h; exact formatA_of_fields hc
  case h_4 hc | h_5 hc | h_7 hc | h_8 hc | h_13 hc => cases h; exact formatXK_of_fields hc rfl
  case h_14 hc => cases h; exact formatXYN_of_fields hc rfl
  case h_6 hc | h_10 hc =>
    split at h <;> cases h
    next hn => exact formatXYN_of_fields hc (congrArg BitVec.toNat hn)
  case h_17 => exact nomatch h

/-! ### the illegal words -/

theorem decodeClass8_illegal {n : Nat} (hn : n ∈ [0x8, 0x9, 0xA, 0xB, 0xC, 0xD, 0xF]) (x y : RegNum) :
    decodeClass8 n x y = none := by
  simp only [List.mem_cons, List.not_mem_nil, or_false] at hn
  rcases hn with rfl | rfl | rfl | rfl | rfl | rfl | rfl <;> rfl

theorem decodeClassE_illegal {nn : Nat} (hn : nn ∉ [0x9E, 0xA1]) (x : RegNum) : decodeClassE nn x = none := by
  unfold decodeClassE
  split
  case h_3 => rfl
  all_goals exact absurd (by decide) hn

theorem decodeClassF_illegal {nn : Nat} (hn : nn ∉ [0x07, 0x0A, 0x15, 0x18, 0x1E, 0x29, 0x33, 0x55, 0x65]) (x : RegNum) :
    decodeClassF nn x = none := by
  unfold decodeClassF
  split
  case h_10 => rfl
  all_goals exact absurd (by decide) hn

/-- The classes of R76 decode to nothing. -/
theorem decodeInstr_of_illegalByClass {op : Word} (h : Machine.illegalByClass op) : decodeInstr op = none := by
  unfold decodeInstr
  rcases h with ⟨hc, h1, h2⟩ | ⟨hc, hn⟩ | ⟨hc, hn⟩ | ⟨hc, hn⟩ | ⟨hc, hn⟩ | ⟨hc, hn⟩ <;> rw [hc]
  · simp only [decodeClass0, if_neg h1, if_neg h2]
  · exact if_neg hn
  · exact decodeClass8_illegal hn _ _
  · exact if_neg hn
  · exact decodeClassE_illegal hn _
  · exact decodeClassF_illegal hn _

end Sys2Proof

/-! The step and its outcome (R36 to R38): what a step answers, when it waits, and that a halted core stays halted. -/

namespace Sys2Proof.Machine

/-! ### the outcome of a step -/

/-- Settles O12, by the four cases of a step. -/
theorem everyStepAnswersNext : Obligations.EveryStepAnswersNext := by
  intro p s
  rcases cycle_cases p s with ⟨_, hc⟩ | ⟨_, _, hc⟩ | ⟨_, _, _, _, hc⟩ | ⟨_, _, _, _, hc⟩ <;> exact ⟨_, hc⟩

/-- Settles O9: the step is over before the fetch. -/
theorem haltedStepChangesNothing : Obligations.HaltedStepChangesNothing := by
  intro p s hs
  have hc := cycle_halted p hs
  exact ⟨hc, by simp only [stepReport, hc, hs, if_true]⟩

/-- A step under `decoupled` that has an instruction to run is that instruction. -/
theorem step_current {s : State} {i : Instr} (h : s.current = some i) : step s = exec i s := by
  obtain ⟨t, ht⟩ := exec_next i s
  calc step s = executePhase .decoupled i s := cycle_current .decoupled h
    _ = .next (timerPhase .decoupled (reportOf i s t) t) := executePhase_next .decoupled ht
    _ = exec i s := by rw [timerPhase_decoupled, ht]

/-- Settles O7: the two bytes are the fetched word. -/
theorem stepRunsDecodedInstruction : Obligations.StepRunsDecodedInstruction := by
  intro s i hrun hpc hdec
  exact step_current (State.current_some.mpr ⟨hrun, _, s.fetch_of_le hpc, hdec⟩)

theorem Instr.waits_iff (i : Instr) (s : State) :
    Instr.waits i s = true ↔ (∃ x, i = .ldVxK x) ∧ ∀ k, s.key.get k = false := by
  cases i with
  | ldVxK x => simp [Instr.waits, Option.isNone_iff_eq_none, keySelect_none]
  | _ => simp [Instr.waits]

/-- An instruction that waits changes nothing (R153). -/
theorem exec_of_waits {i : Instr} {s : State} (h : Instr.waits i s = true) : exec i s = .next s := by
  obtain ⟨⟨x, rfl⟩, hk⟩ := (Instr.waits_iff i s).mp h
  show execLdVxK x s = .next s
  simp only [execLdVxK, (keySelect_none s.key).mpr hk]

theorem reportOf_waits {i : Instr} {s : State} (hs : s.status.halted = false) (h : Instr.waits i s = true) :
    reportOf i s s = .waiting := by
  simp [reportOf, hs, h]

/-- The outcome is `Waiting` exactly when the instruction at pc waits (R37). -/
theorem stepReport_waiting_iff (p : Config.TimerPolicy) (s : State) :
    stepReport p s = .waiting ↔ ∃ i, s.current = some i ∧ Instr.waits i s = true := by
  constructor
  · intro h
    obtain ⟨t, ht⟩ := everyStepAnswersNext p s
    simp only [stepReport, ht] at h
    split at h
    · exact nomatch h
    · split at h
      next hw => simpa [Option.any_eq_true] using hw
      · exact nomatch h
  · rintro ⟨i, hi, hw⟩
    rw [stepReport_current p hi (exec_of_waits hw)]
    exact reportOf_waits (State.current_some.mp hi).1 hw

/-- Settles O13: of the 34 instructions FX0A alone waits, and one that waits neither writes anything nor ticks. -/
theorem waitingStepChangesNothing : Obligations.WaitingStepChangesNothing := by
  intro p s
  rw [stepReport_waiting_iff]
  constructor
  · constructor
    · rintro ⟨i, hi, hw⟩
      obtain ⟨⟨x, rfl⟩, hk⟩ := (Instr.waits_iff i s).mp hw
      exact ⟨⟨x, hi⟩, hk⟩
    · rintro ⟨⟨x, hx⟩, hk⟩
      exact ⟨_, hx, (Instr.waits_iff _ s).mpr ⟨⟨x, rfl⟩, hk⟩⟩
  · rintro ⟨i, hi, hw⟩
    rw [cycle_current p hi, executePhase_next p (exec_of_waits hw), reportOf_waits (State.current_some.mp hi).1 hw]
    cases p <;> rfl

/-! ### the halt -/

theorem stepRnd_next {p : Config.TimerPolicy} {r : Byte} {s t : State} (h : stepRnd p r s = .next t) :
    ∃ u, cycle p (s.supplyRnd r) = .next u ∧ t = u.dropRnd := by
  unfold stepRnd at h
  split at h
  next u hu => cases h; exact ⟨u, hu, rfl⟩
  all_goals exact nomatch h

/-- Settles O43: a step of a halted core answers the state it started from, and no other event but `Reset` writes `status`. -/
theorem onlyResetLeavesHalt : Obligations.OnlyResetLeavesHalt := by
  intro p e s t h hreset hor
  cases e with
  | reset => exact absurd rfl hreset
  | hostWriteMem _ _ | hostSetKeys _ | tick => cases h; rfl
  | step r =>
    have hhalted : s.status.halted = true := hor.resolve_right fun hn => hn r rfl
    obtain ⟨u, hu, rfl⟩ := stepRnd_next h
    cases hu.symm.trans (cycle_halted p (s := s.supplyRnd r) hhalted)
    rfl

end Sys2Proof.Machine

/-! What one instruction can do to each piece of the state, said once for all 34: the columns w of the access matrix (R43),
the values pc can take (R25), the one run of bytes a store writes (R54) and the one slot a call writes (R26, R93). The frame
and the invariant of the machine are read off it. -/

namespace Sys2Proof.Machine

/-- The values an instruction can leave in pc (R25, R41 b): pc itself where it halts or waits, the next instruction, a skip, the
targets of the two jumps and of the call, and the return. -/
inductive NextPc (s : State) : Word → Prop
  | stay : NextPc s s.pc
  | next : NextPc s (s.pc + 2)
  | skip : NextPc s (s.pc + 4)
  | target (nnn : Addr) : NextPc s (extendAddr nnn)
  | offset (nnn : Addr) : NextPc s (extendAddr nnn + extendByte (s.reg 0))
  | back (k : Fin 16) (h : k.val < s.sp.val) : NextPc s (s.stack.get k + 2)

/-- What i can have changed when it leads from s to t. Each field has as its default the proof for an instruction that does not
touch that piece of the state, so that an instruction names only what it writes. -/
structure Effect (i : Instr) (s t : State) : Prop where
  /-- the columns V and "VF as flag" -/
  reg : ∀ r, ¬ writesReg i r → t.reg r = s.reg r := by intros; rfl
  /-- a store writes one run of bytes from I on (R54) -/
  mem : t.mem = s.mem ∨ ∃ bs : List Byte, t.mem = s.mem.writeBytes (s.address 0) bs ∧
    ∀ a, s.address 0 ≤ a → a < s.address bs.length → storesAt s i a := by exact .inl (by simp)
  index : ¬ writesI i → t.i = s.i := by intros; simp
  /-- a return frees a slot and writes none; a call pushes its own address on the first free one (R91, R93) -/
  calls : (t.stack = s.stack ∧ t.sp = s.sp) ∨ (i = .ret ∧ t.stack = s.stack ∧ t.sp.val < s.sp.val) ∨
    ((∃ nnn, i = .call nnn) ∧ t.sp.val = s.sp.val + 1 ∧
      ∃ h : s.sp.val < 16, t.stack = s.stack.set s.sp.val s.pc h) := by exact .inl (by simp)
  fb : ¬ writesFrame i → t.fb = s.fb := by intros; simp
  dt : (∀ x, i ≠ .ldDtVx x) → t.dt = s.dt := by intros; simp
  st : (∀ x, i ≠ .ldStVx x) → t.st = s.st := by intros; simp
  random : (∀ x nn, i ≠ .rnd x nn) → t.rndIn = s.rndIn ∧ t.draws = s.draws := by intros; simp
  /-- no instruction writes a latch -/
  key : t.key = s.key := by simp
  counter : NextPc s t.pc := by exact .next

/-- The instruction i, run in s, answers r: a next state that differs from s in what i writes. -/
def Answers (i : Instr) (s : State) (r : Result) : Prop := ∃ t, r = .next t ∧ Effect i s t

theorem answers_complete {i : Instr} {s t : State} (h : Effect i s t) : Answers i s (complete t) := ⟨t, rfl, h⟩

theorem answers_raise {i : Instr} {s : State} (c : Cause) (w : Word) : Answers i s (raise c w s) :=
  ⟨s.halt c w, rfl, { counter := .stay }⟩

theorem answers_withAccess {i : Instr} {s : State} {k : Nat} {r : Result} (h : Answers i s r) :
    Answers i s (s.withAccess k r) := by
  unfold State.withAccess
  split
  · exact h
  · exact answers_raise _ _

/-! ### the shapes of the meanings -/

theorem effect_skipIf (i : Instr) (s : State) (c : Bool) : Effect i s (s.skipIf c) :=
  { counter := by cases c; exacts [.next, .skip] }

theorem effect_result {i : Instr} (s : State) (x : RegNum) (b : Byte) (h : writesReg i x) :
    Effect i s (s.result x b) :=
  { reg := fun r hr => s.reg_setReg_other x r b fun e => hr (e ▸ h) }

theorem effect_flagResult {i : Instr} (s : State) (f : Bool) (x : RegNum) (b : Byte) (h : writesReg i x)
    (hf : writesReg i regVF) : Effect i s (s.flagResult f x b) :=
  { reg := fun r hr => ((s.setFlag f).reg_setReg_other x r b fun e => hr (e ▸ h)).trans
      (s.reg_setReg_other regVF r _ fun e => hr (e ▸ hf)) }

theorem effect_drawn (x y : RegNum) (n : Nibble) (s : State) (d : Drawing) : Effect (.drw x y n) s (s.drawn d) :=
  { reg := fun r hr => State.reg_setReg_other _ regVF r _ hr
    fb := fun h => absurd (.inr ⟨x, y, n, rfl⟩) h }

theorem effect_store {i : Instr} (s : State) (bs : List Byte)
    (h : ∀ a, s.address 0 ≤ a → a < s.address bs.length → storesAt s i a) : Effect i s (s.store bs).advance :=
  { mem := .inr ⟨bs, rfl, h⟩ }

theorem effect_setI {i : Instr} (s : State) (w : Word) (h : writesI i) : Effect i s (s.setI w).advance :=
  { index := fun hn => absurd h hn }

theorem effect_loadRegsTo (x : RegNum) (s : State) : Effect (.loadRegs x) s (s.loadRegsTo x).advance :=
  { reg := fun r hr => (s.reg_loadRegsTo x r).trans (if_neg hr) }

theorem effect_rnd (x : RegNum) (nn : Byte) (s : State) (b : Byte) :
    Effect (.rnd x nn) s (s.consumeRnd.setReg x b).advance :=
  { reg := fun r hr => (s.consumeRnd.reg_setReg_other x r b hr).trans (s.reg_consumeRnd r)
    random := fun h => absurd rfl (h x nn)
    counter := by simpa using NextPc.next }

theorem answers_ret (s : State) : Answers .ret s (execRet s) := by
  unfold execRet
  split
  · next w t h =>
    obtain ⟨k, hk, hw, hsp, ht⟩ := State.pop_some h
    rw [ht, hw]
    exact answers_complete
      { calls := .inr (.inl ⟨rfl, rfl, show t.sp.val < s.sp.val by omega⟩)
        counter := .back k (by omega) }
  · exact answers_raise _ _

theorem answers_call (nnn : Addr) (s : State) : Answers (.call nnn) s (execCall nnn s) := by
  unfold execCall
  split
  · next t h =>
    obtain ⟨hk, hsp, hst, ht⟩ := State.push_some h
    rw [ht]
    exact answers_complete
      { calls := .inr (.inr ⟨⟨nnn, rfl⟩, hsp, hk, hst⟩)
        counter := .target nnn }
  · exact answers_raise _ _

theorem answers_drw (x y : RegNum) (n : Nibble) (s : State) : Answers (.drw x y n) s (execDrw x y n s) := by
  unfold execDrw
  split
  · exact answers_complete (effect_drawn x y n s _)
  · exact answers_withAccess (answers_complete (effect_drawn x y n s _))

theorem answers_skp (x : RegNum) (s : State) : Answers (.skp x) s (execSkp x s) := by
  unfold execSkp
  split
  · exact answers_complete (effect_skipIf _ s _)
  · exact answers_raise _ _

theorem answers_sknp (x : RegNum) (s : State) : Answers (.sknp x) s (execSknp x s) := by
  unfold execSknp
  split
  · exact answers_complete (effect_skipIf _ s _)
  · exact answers_raise _ _

theorem answers_ldVxK (x : RegNum) (s : State) : Answers (.ldVxK x) s (execLdVxK x s) := by
  unfold execLdVxK
  split
  · exact ⟨s, rfl, { counter := .stay }⟩
  · exact answers_complete (effect_result s x _ rfl)

/-- Every instruction, in every state, answers a next state that differs from it in what the instruction writes (R43). -/
theorem exec_answers (i : Instr) (s : State) : Answers i s (exec i s) := by
  cases i with
  | cls => exact answers_complete { fb := fun h => absurd (.inl rfl) h }
  | ret => exact answers_ret s
  | jp nnn => exact answers_complete { counter := .target nnn }
  | call nnn => exact answers_call nnn s
  | jpV0 nnn => exact answers_complete { counter := .offset nnn }
  | seImm _ _ | sneImm _ _ | seReg _ _ | sneReg _ _ => exact answers_complete (effect_skipIf _ s _)
  | skp x => exact answers_skp x s
  | sknp x => exact answers_sknp x s
  | ldImm x _ | addImm x _ | ldReg x _ | orReg x _ | andReg x _ | xorReg x _ | ldVxDt x =>
    exact answers_complete (effect_result s x _ rfl)
  | addReg x _ | subReg x _ | shr x _ | subnReg x _ | shl x _ =>
    exact answers_complete (effect_flagResult s _ x _ (.inl rfl) (.inr rfl))
  | ldI nnn => exact answers_complete (effect_setI s _ (.inl ⟨nnn, rfl⟩))
  | addI x => exact answers_complete (effect_setI s _ (.inr (.inl ⟨x, rfl⟩)))
  | ldF x => exact answers_complete (effect_setI s _ (.inr (.inr ⟨x, rfl⟩)))
  | rnd x nn => exact answers_complete (effect_rnd x nn s _)
  | drw x y n => exact answers_drw x y n s
  | ldVxK x => exact answers_ldVxK x s
  | ldDtVx x => exact answers_complete { dt := fun h => absurd rfl (h x) }
  | ldStVx x => exact answers_complete { st := fun h => absurd rfl (h x) }
  | ldB x => exact answers_withAccess (answers_complete (effect_store s _ fun _ h h' => ⟨h, h'⟩))
  | storeRegs x =>
    exact answers_withAccess (answers_complete (effect_store s _ fun _ h h' => ⟨h, s.regsTo_length x ▸ h'⟩))
  | loadRegs x => exact answers_withAccess (answers_complete (effect_loadRegsTo x s))

/-- What an instruction that leads from s to t has changed. -/
theorem exec_effect {i : Instr} {s t : State} (h : exec i s = .next t) : Effect i s t := by
  obtain ⟨u, hu, he⟩ := exec_answers i s
  cases h.symm.trans hu
  exact he

end Sys2Proof.Machine

/-! The access matrix (R43): the frame of every instruction, and the latches as an input that three instructions read. -/

namespace Sys2Proof.Machine

/-! ### the frame of one instruction -/

/-- A byte outside the addresses an instruction stores to is as before (R54). -/
theorem Effect.read_mem {i : Instr} {s t : State} (he : Effect i s t) {a : Nat} (ha : ¬ storesAt s i a) :
    t.mem.read a = s.mem.read a := by
  rcases he.mem with e | ⟨bs, e, hst⟩ <;> rw [e]
  refine Memory.read_writeBytes_outside bs _ _ a ?_
  have hends : s.address bs.length = s.address 0 + bs.length := rfl
  by_contra hin
  exact ha (hst a (by omega) (by omega))

theorem Effect.calls_frame {i : Instr} {s t : State} (he : Effect i s t) (h : ¬ writesStack i) :
    t.stack = s.stack ∧ t.sp = s.sp := by
  rcases he.calls with hkeep | ⟨hret, _⟩ | ⟨hcall, _⟩
  · exact hkeep
  · exact absurd (.inl hret) h
  · exact absurd (.inr hcall) h

/-- Settles O54: each clause is a field of the instruction's effect, and the last is the two ways an instruction can end. -/
theorem accessMatrixFrame : Obligations.AccessMatrixFrame := by
  intro i s t h
  have he := exec_effect h
  have hstatus : t.status = s.status ∨ t = { s with status := t.status } :=
    (exec_status h).imp_right fun ⟨_, _, _, ht⟩ => ht ▸ rfl
  exact ⟨he.reg, fun _ => he.read_mem, he.index, he.calls_frame, fun hf _ _ => by rw [he.fb hf],
    he.dt, he.st, he.random, he.key, hstatus⟩

/-! ### the latches are not read -/

/-- The answer with its next state changed by f. -/
def Result.map (f : State → State) : Result → Result
  | .next t => .next (f t)
  | .fault r => .fault r
  | .refused r => .refused r

theorem State.push_setKeys (s : State) (k : Keys) (w : Word) :
    (s.setKeys k).push w = (s.push w).map (·.setKeys k) := by
  by_cases h : s.sp.val < 16
  · rw [s.push_of_lt w h, (s.setKeys k).push_of_lt w h]; rfl
  · have hfull : s.sp.val = 16 := by have := s.sp.isLt; omega
    rw [(s.push_none w).mpr hfull, ((s.setKeys k).push_none w).mpr hfull]; rfl

theorem State.pop_setKeys (s : State) (k : Keys) :
    (s.setKeys k).pop = s.pop.map fun q => (q.1, q.2.setKeys k) := by
  by_cases h : 0 < s.sp.val
  · rw [s.pop_of_pos h, (s.setKeys k).pop_of_pos h]; rfl
  · have hempty : s.sp.val = 0 := by omega
    rw [s.pop_none.mpr hempty, (s.setKeys k).pop_none.mpr hempty]; rfl

theorem State.consumeRnd_setKeys (s : State) (k : Keys) : (s.setKeys k).consumeRnd = s.consumeRnd.setKeys k := by
  cases h : s.rndIn <;> simp only [State.consumeRnd, State.setKeys_rndIn, h] <;> rfl

theorem State.withAccess_setKeys (s : State) (k : Keys) (last : Nat) {r r' : Result} (h : r' = r.map (·.setKeys k)) :
    (s.setKeys k).withAccess last r' = (s.withAccess last r).map (·.setKeys k) := by
  by_cases hin : s.i.toNat + last ≤ 0xFFF
  · rw [s.withAccess_of_le last r hin, (s.setKeys k).withAccess_of_le last r' hin, h]
  · have hout : 0xFFF < s.i.toNat + last := by omega
    rw [s.withAccess_of_gt last r hout, (s.setKeys k).withAccess_of_gt last r' hout]
    rfl

/-- An instruction that reads no latch commutes with setting them (R30, R43). -/
theorem exec_setKeys {i : Instr} (h : ¬ readsKeys i) (s : State) (k : Keys) :
    exec i (s.setKeys k) = Result.map (·.setKeys k) (exec i s) := by
  cases i
  case ret =>
    show execRet (s.setKeys k) = (execRet s).map (·.setKeys k)
    unfold execRet
    rw [s.pop_setKeys]
    cases s.pop <;> rfl
  case call nnn =>
    show execCall nnn (s.setKeys k) = (execCall nnn s).map (·.setKeys k)
    unfold execCall
    rw [State.setKeys_pc, s.push_setKeys]
    cases s.push s.pc <;> rfl
  case rnd x nn =>
    show complete ((s.setKeys k).consumeRnd.setReg x (s.rndByte &&& nn)).advance = _
    rw [s.consumeRnd_setKeys]
    rfl
  case drw x y n =>
    show execDrw x y n (s.setKeys k) = (execDrw x y n s).map (·.setKeys k)
    unfold execDrw
    split
    · rfl
    · exact s.withAccess_setKeys k _ rfl
  case skp x => exact absurd (.inl ⟨x, rfl⟩) h
  case sknp x => exact absurd (.inr (.inl ⟨x, rfl⟩)) h
  case ldVxK x => exact absurd (.inr (.inr ⟨x, rfl⟩)) h
  case ldB x => exact s.withAccess_setKeys k _ rfl
  case storeRegs x => exact s.withAccess_setKeys k _ rfl
  case loadRegs x => exact s.withAccess_setKeys k _ rfl
  all_goals rfl

/-- Settles O55: the instruction commutes with setting the latches. -/
theorem keysReadByKeyInstructionsOnly : Obligations.KeysReadByKeyInstructionsOnly := by
  intro i s t k hi h
  calc exec i (s.setKeys k) = Result.map (·.setKeys k) (exec i s) := exec_setKeys hi s k
    _ = .next (t.setKeys k) := by rw [h]; rfl

end Sys2Proof.Machine

/-! The invariant of R41: each instruction keeps it from a pc that fetches, so each step keeps it, so does each event of the
host, and `Reset` establishes it. -/

namespace Sys2Proof.Machine

/-! ### the fields the invariant speaks of -/

/-- The invariant speaks of memory, pc, the call stack and `status` only. -/
theorem State.Inv.congr {s t : State} (hi : s.Inv) (hm : t.mem = s.mem) (hp : t.pc = s.pc) (hk : t.stack = s.stack)
    (hn : t.sp = s.sp) (hs : t.status = s.status) : t.Inv where
  memory := hm ▸ hi.memory
  counter := hp ▸ hi.counter
  slots := by rw [hk, hn]; exact hi.slots
  running := hs ▸ hi.running
  stopped := hs ▸ hi.stopped

theorem State.Inv.tick {s : State} (hi : s.Inv) : s.tick.Inv := hi.congr rfl rfl rfl rfl rfl

theorem State.Inv.halt {s : State} (hi : s.Inv) {c : Cause} (w : Word) (hc : c ≠ .none) : (s.halt c w).Inv where
  memory := hi.memory
  counter := hi.counter
  slots := hi.slots
  running h := nomatch h
  stopped _ := hc

theorem State.Inv.timerPhase {t : State} (ht : t.Inv) (p : Config.TimerPolicy) (r : Report) :
    (timerPhase p r t).Inv := by
  rcases timerPhase_cases p r t with h | ⟨_, _, h⟩ <;> rw [h]
  · exact ht
  · exact ht.tick

/-! ### one instruction -/

theorem extendAddr_toNat (nnn : Addr) : (extendAddr nnn).toNat = nnn.toNat :=
  BitVec.toNat_setWidth_of_le (by decide)

theorem extendByte_toNat (b : Byte) : (extendByte b).toNat = b.toNat :=
  BitVec.toNat_setWidth_of_le (by decide)

/-- "`pc <= 0x10FE`": the highest target is that of BNNN, 0xFFF + 0xFF (R41 b). -/
theorem NextPc.toNat_le {s : State} {w : Word} (h : NextPc s w) (hpc : s.pc.toNat ≤ 0xFFE)
    (hslots : ∀ k : Fin 16, k.val < s.sp.val → (s.stack.get k).toNat ≤ 0xFFE) : w.toNat ≤ 0x10FE := by
  cases h with
  | stay => omega
  | next => bv_omega
  | skip => bv_omega
  | target nnn =>
    have := nnn.isLt
    rw [extendAddr_toNat]
    omega
  | offset nnn =>
    have := nnn.isLt
    have := (s.reg 0).isLt
    rw [BitVec.toNat_add, extendAddr_toNat, extendByte_toNat]
    omega
  | back k hk =>
    have := hslots k hk
    bv_omega

theorem Effect.mem_wf {i : Instr} {s t : State} (he : Effect i s t) (h : s.mem.wf) : t.mem.wf := by
  rcases he.mem with e | ⟨bs, e, _⟩ <;> rw [e]
  · exact h
  · exact Memory.wf_writeBytes bs _ _ h

/-- "every occupied stack slot holds a value `<= 0xFFE`": a call pushes its own pc, which was fetched from (R41 c). -/
theorem Effect.slots_le {i : Instr} {s t : State} (he : Effect i s t) (hpc : s.pc.toNat ≤ 0xFFE)
    (hslots : ∀ k : Fin 16, k.val < s.sp.val → (s.stack.get k).toNat ≤ 0xFFE) :
    ∀ k : Fin 16, k.val < t.sp.val → (t.stack.get k).toNat ≤ 0xFFE := by
  intro k hk
  rcases he.calls with ⟨hst, hsp⟩ | ⟨_, hst, hsp⟩ | ⟨_, hsp, _, hst⟩ <;> rw [hst]
  · exact hslots k (hsp ▸ hk)
  · exact hslots k (by omega)
  · rw [Vector.get_eq_getElem, Vector.getElem_set]
    split
    · exact hpc
    · exact hslots k (by omega)

/-- An instruction run from a pc that fetches keeps the invariant. -/
theorem exec_keeps_inv {i : Instr} {s t : State} (h : exec i s = .next t) (hi : s.Inv) (hpc : s.pc.toNat ≤ 0xFFE) :
    t.Inv := by
  rcases exec_status h with hs | ⟨c, w, hc, rfl⟩
  · have he := exec_effect h
    exact {
      memory := he.mem_wf hi.memory
      counter := he.counter.toNat_le hpc hi.slots
      slots := he.slots_le hpc hi.slots
      running := hs ▸ hi.running
      stopped := hs ▸ hi.stopped }
  · exact hi.halt w hc

/-- The instruction at pc has been fetched, so pc is at most 0xFFE (R53). -/
theorem State.pc_le_of_current {s : State} {i : Instr} (h : s.current = some i) : s.pc.toNat ≤ 0xFFE := by
  obtain ⟨_, _, hf, _⟩ := State.current_some.mp h
  exact (State.fetch_some hf).1

/-- Settles O50, by the four cases of a step: each condition changes `status` only, and an instruction is run from a pc of at most
0xFFE, from where its effect keeps every range. -/
theorem stepKeepsInvariant : Obligations.StepKeepsInvariant := by
  intro p s t hi h
  rcases cycle_cases p s with ⟨_, hc⟩ | ⟨_, _, hc⟩ | ⟨_, op, _, _, hc⟩ | ⟨i, u, hcur, hu, hc⟩ <;>
    cases h.symm.trans hc
  · exact hi
  · exact hi.halt _ (by decide)
  · exact hi.halt _ (by decide)
  · exact (exec_keeps_inv hu hi (State.pc_le_of_current hcur)).timerPhase p _

/-! ### the events of a host -/

theorem resetEvent_inv (s : State) : s.resetEvent.Inv where
  memory := Memory.wf_nil
  counter := show (0x200 : Word).toNat ≤ 0x10FE by decide
  slots k hk := nomatch hk
  running _ := rfl
  stopped h := nomatch h

/-- Settles O49: the state after reset is that of the event `Reset` with no byte drawn. -/
theorem resetMeetsInvariant : Obligations.ResetMeetsInvariant := ⟨resetEvent_inv State.reset, rfl⟩

/-- Every event keeps the invariant: `Reset` establishes it, the loader's write keeps memory canonical, a step is O50, and the
others write nothing the invariant speaks of. -/
theorem react_keeps_inv {p : Config.TimerPolicy} {e : Event} {s t : State} (h : react p e s = .next t) (hi : s.Inv) :
    t.Inv := by
  cases e with
  | reset => cases h; exact resetEvent_inv s
  | hostWriteMem o b =>
    cases h
    exact { hi with memory := s.mem.wf_write _ b hi.memory }
  | hostSetKeys k => cases h; exact hi.congr rfl rfl rfl rfl rfl
  | step r =>
    obtain ⟨u, hu, rfl⟩ := stepRnd_next h
    have hsupplied : (s.supplyRnd r).Inv := hi.congr rfl rfl rfl rfl rfl
    exact (stepKeepsInvariant p _ u hsupplied hu).congr rfl rfl rfl rfl rfl
  | tick => cases h; exact hi.tick

theorem runEvents_cons {p : Config.TimerPolicy} {e : Event} {es : List Event} {s t : State}
    (h : runEvents p (e :: es) s = .next t) : ∃ u, react p e s = .next u ∧ runEvents p es u = .next t := by
  unfold runEvents at h
  split at h
  next u hu => exact ⟨u, hu, h⟩
  all_goals exact nomatch h

theorem runEvents_keeps_inv {p : Config.TimerPolicy} {es : List Event} {s t : State}
    (h : runEvents p es s = .next t) (hi : s.Inv) : t.Inv := by
  induction es generalizing s with
  | nil => cases h; exact hi
  | cons e es ih =>
    obtain ⟨u, hu, ht⟩ := runEvents_cons h
    exact ih ht (react_keeps_inv hu hi)

/-- Before the first reset the host may issue `Reset` alone (R192). -/
theorem admissible_off_cons {p : Config.TimerPolicy} {e : Event} {es : List Event}
    (h : admissible p .off (e :: es) = true) : e = .reset := by
  cases e with
  | reset => rfl
  | hostWriteMem _ _ | hostSetKeys _ | step _ | tick => exact nomatch h

/-- Settles O51: the first event is `Reset`, which establishes the invariant from any state, and every later event keeps it. -/
theorem reachableStatesMeetInvariant : Obligations.ReachableStatesMeetInvariant := by
  rintro p s ⟨t, es, hadm, hne, hrun⟩
  cases es with
  | nil => exact absurd rfl hne
  | cons e es =>
    cases admissible_off_cons hadm
    exact runEvents_keeps_inv (s := t.resetEvent) hrun (resetEvent_inv t)

end Sys2Proof.Machine

/-! `status` as the host reads it (R32, R160): each condition as the state a step goes to. -/

namespace Sys2Proof.Machine

/-! ### the instructions that raise (the table of R160) -/

theorem exec_call_of_full (nnn : Addr) {s : State} (h : s.sp.val = 16) :
    exec (.call nnn) s = .next (s.halt .stackOverflow (encode (.call nnn))) := by
  show execCall nnn s = _
  simp only [execCall, (s.push_none s.pc).mpr h, raise_eq]

theorem exec_ret_of_empty {s : State} (h : s.sp.val = 0) :
    exec .ret s = .next (s.halt .stackUnderflow (encode .ret)) := by
  show execRet s = _
  simp only [execRet, s.pop_none.mpr h, raise_eq]

theorem exec_ldB_of_gt (x : RegNum) {s : State} (h : 0xFFF < s.i.toNat + 2) :
    exec (.ldB x) s = .next (s.halt .addressFaultData s.i) := s.withAccess_of_gt 2 _ h

theorem exec_storeRegs_of_gt (x : RegNum) {s : State} (h : 0xFFF < s.i.toNat + x.val) :
    exec (.storeRegs x) s = .next (s.halt .addressFaultData s.i) := s.withAccess_of_gt x.val _ h

theorem exec_loadRegs_of_gt (x : RegNum) {s : State} (h : 0xFFF < s.i.toNat + x.val) :
    exec (.loadRegs x) s = .next (s.halt .addressFaultData s.i) := s.withAccess_of_gt x.val _ h

theorem exec_drw_of_gt (x y : RegNum) {n : Nibble} {s : State} (hn : 1 ≤ n.toNat)
    (h : 0xFFF < s.i.toNat + (n.toNat - 1)) : exec (.drw x y n) s = .next (s.halt .addressFaultData s.i) := by
  have hne : n ≠ 0 := fun e => by rw [e] at hn; exact absurd hn (by decide)
  exact (if_neg hne).trans (s.withAccess_of_gt (n.toNat - 1) _ h)

theorem exec_skp_of_gt (x : RegNum) {s : State} (h : 0xF < (s.reg x).toNat) :
    exec (.skp x) s = .next (s.halt .keyIndexFault (encode (.skp x))) := by
  show execSkp x s = _
  simp only [execSkp, (s.latchOf_none x).mpr h, raise_eq]

theorem exec_sknp_of_gt (x : RegNum) {s : State} (h : 0xF < (s.reg x).toNat) :
    exec (.sknp x) s = .next (s.halt .keyIndexFault (encode (.sknp x))) := by
  show execSknp x s = _
  simp only [execSknp, (s.latchOf_none x).mpr h, raise_eq]

/-! ### the steps that raise -/

/-- A step whose instruction raises ends there: the timer phase performs no tick (R176). -/
theorem cycle_of_exec_halt (p : Config.TimerPolicy) {s : State} {i : Instr} {c : Cause} {w : Word}
    (hi : s.current = some i) (h : exec i s = .next (s.halt c w)) : cycle p s = .next (s.halt c w) := by
  rw [cycle_current p hi, executePhase_next p h]
  cases p <;> rfl

theorem cycle_of_fetch_outside (p : Config.TimerPolicy) {s : State} (hs : s.status.halted = false)
    (h : 0xFFE < s.pc.toNat) : cycle p s = .next (s.halt .addressFaultFetch s.pc) := by
  simp only [cycle, fetchPhase, hs, s.fetch_none.mpr h, Bool.false_eq_true, if_false, raise_eq]

theorem cycle_of_illegal (p : Config.TimerPolicy) {s : State} {op : Word} (hs : s.status.halted = false)
    (hf : s.fetch = some op) (h : illegalByClass op) : cycle p s = .next (s.halt .unknownOpcode op) := by
  simp only [cycle, fetchPhase, decodePhase, decode, hs, hf, decodeInstr_of_illegalByClass h, Bool.false_eq_true,
    if_false, raise_eq]

/-- The word at pc is the word of the instruction at pc. -/
theorem State.encode_of_current {s : State} {op : Word} {i : Instr} (hf : s.fetch = some op)
    (hi : s.current = some i) : encode i = op := by
  obtain ⟨_, op', hf', hd⟩ := State.current_some.mp hi
  cases hf.symm.trans hf'
  exact encode_of_decodeInstr (decode_ok.mp hd)

/-- A step of a running core that does not halt it leaves `status` (R32, R169). -/
theorem cycle_status_running {p : Config.TimerPolicy} {s t : State} (h : cycle p s = .next t)
    (ht : t.status.halted = false) : t.status = s.status := by
  rcases cycle_cases p s with ⟨_, hc⟩ | ⟨_, _, hc⟩ | ⟨_, _, _, _, hc⟩ | ⟨i, u, _, hu, hc⟩ <;>
    cases h.symm.trans hc
  · rfl
  · exact nomatch ht
  · exact nomatch ht
  · rw [timerPhase_status] at ht ⊢
    rcases exec_status hu with hs | ⟨c, w, _, rfl⟩
    · exact hs
    · exact nomatch ht

/-! ### the register -/

theorem Cause.code_ne_seven (c : Cause) : c.code ≠ 7 := by cases c <;> decide

theorem readStatus_halt (s : State) (c : Cause) (w : Word) : (s.halt c w).readStatus = (1, c.code, w) := rfl

/-- Settles O58: each clause names the state its condition leads to, whose `status` the host reads. -/
theorem statusAsTheHostReads : Obligations.StatusAsTheHostReads := by
  intro p s
  obtain ⟨t, ht⟩ := everyStepAnswersNext p s
  refine ⟨t, ht, t.status.cause.code_ne_seven, fun hs => ?_, fun hs => ?_⟩
  · cases ht.symm.trans (cycle_halted p hs)
    simp [State.readStatus, hs]
  · have hrun : s.status.halted = false := hs ▸ rfl
    have raised {c : Cause} {w : Word} (h : cycle p s = .next (s.halt c w)) : t.readStatus = (1, c.code, w) := by
      cases ht.symm.trans h
      exact readStatus_halt s c w
    have executed {i : Instr} {c : Cause} {w : Word} (hi : s.current = some i)
        (h : exec i s = .next (s.halt c w)) : t.readStatus = (1, c.code, w) := raised (cycle_of_exec_halt p hi h)
    refine ⟨?_, ?_, ?_, ?_, ?_, ?_, ?_, ?_, ?_⟩
    · intro hgo
      rw [State.readStatus, cycle_status_running ht hgo, hs]
      rfl
    · exact fun hpc => raised (cycle_of_fetch_outside p hrun hpc)
    · exact fun op hf hop => raised (cycle_of_illegal p hrun hf hop)
    · intro op nnn hf hi hsp
      rw [← State.encode_of_current hf hi]
      exact executed hi (exec_call_of_full nnn hsp)
    · exact fun hi hsp => executed hi (exec_ret_of_empty hsp)
    · exact fun x hi h => executed hi (exec_ldB_of_gt x h)
    · rintro x (hi | hi) h
      · exact executed hi (exec_storeRegs_of_gt x h)
      · exact executed hi (exec_loadRegs_of_gt x h)
    · exact fun x y n hi hn h => executed hi (exec_drw_of_gt x y hn h)
    · rintro op x hf (hi | hi) h <;> rw [← State.encode_of_current hf hi]
      · exact executed hi (exec_skp_of_gt x h)
      · exact executed hi (exec_sknp_of_gt x h)

end Sys2Proof.Machine

/-! The other transactions of the host (R39): `Reset`, its two writes, and the renderer's read. -/

namespace Sys2Proof.Machine

/-- Settles O44: memory lists nothing after a reset, so each byte reads as its unlisted value. -/
theorem resetLeaves : Obligations.ResetLeaves := by
  intro p s
  have hfont : ∀ (a : Nat) (h : a < 80), unlisted a = Config.font[a] := fun a h => dif_pos h
  have hzero : ∀ a, 80 ≤ a → unlisted a = 0 := fun a h => dif_neg (Nat.not_lt.mpr h)
  refine ⟨s.resetEvent, rfl, ?_, rfl, rfl, rfl, ?_, rfl, rfl, rfl, Frame.pixel_clear, hfont, hzero, ?_, rfl, rfl⟩
  all_goals simp [State.resetEvent, State.reset, State.reg, Vector.get_eq_getElem]

/-- Settles O47: the offset stays below 0x1000 (R193), so the write is one of memory's. -/
theorem hostWriteResults : Obligations.HostWriteResults := by
  intro p s k o b
  have ho : 0x200 + o.val < Config.memSize := by have := o.isLt; simp only [Config.memSize]; omega
  exact ⟨rfl, s.hostWrite o b, rfl, fun a => s.mem.read_write _ a b ho, rfl⟩

/-- Rows of one length n, one after the other: the k-th entry of row j stands at j * n + k. -/
theorem getElem?_flatMap_of_length {α β : Type} (f : α → List β) (n : Nat) (hf : ∀ a, (f a).length = n) (l : List α)
    (j k : Nat) (hk : k < n) : (l.flatMap f)[j * n + k]? = l[j]?.bind fun a => (f a)[k]? := by
  induction l generalizing j with
  | nil => rfl
  | cons a l ih =>
    rw [List.flatMap_cons]
    cases j with
    | zero =>
      rw [List.getElem?_append_left (by rw [hf]; omega)]
      simp
    | succ j =>
      have hpast : (j + 1) * n + k = (f a).length + (j * n + k) := by rw [hf, Nat.succ_mul]; omega
      rw [hpast, List.getElem?_append_right (Nat.le_add_right _ _), Nat.add_sub_cancel_left, ih]
      rfl

/-- Settles O48: the 32 rows are lists of 64 bytes. -/
theorem rendererReadsRowMajor : Obligations.RendererReadsRowMajor := by
  intro s
  have hrow : ∀ row : Vector Bool 64, (row.toList.map flagByte).length = 64 := fun row => by simp
  refine ⟨by simp [State.frameBytes, List.length_flatMap], fun px py => ?_⟩
  rw [State.frameBytes, getElem?_flatMap_of_length _ 64 hrow _ _ _ px.isLt]
  show _ = some (flagByte (s.fb.pixel px py))
  simp [Frame.pixel, Vector.get_eq_getElem]

end Sys2Proof.Machine

/-! Decoding the word of an instruction (R72, R74): the encoder's inverse, for every instruction and every operand. -/

namespace Sys2Proof

/-- The class of the format picks the arm of the decode tree, and the format's fields give the operands back. -/
theorem decodeInstr_encode (i : Instr) : decodeInstr (encode i) = some i := by
  cases i with
  | cls | ret => rfl
  | jp | call | ldI | jpV0 | seImm | sneImm | ldImm | addImm | rnd | seReg | sneReg | drw =>
    simp [encode, decodeInstr]
  | ldReg | orReg | andReg | xorReg | addReg | subReg | shr | subnReg | shl => simp [encode, decodeInstr, decodeClass8]
  | skp | sknp => simp [encode, decodeInstr, decodeClassE]
  | ldVxDt | ldVxK | ldDtVx | ldStVx | addI | ldF | ldB | storeRegs | loadRegs =>
    simp [encode, decodeInstr, decodeClassF]

theorem decode_encode (i : Instr) : decode (encode i) = .ok i := Machine.decode_ok.mpr (decodeInstr_encode i)

/-- A word is its own number (R7, R70). -/
theorem tableWord_toNat (op : Word) : tableWord 16 op.toNat = some op := by
  rw [tableWord, if_pos (Nat.le_refl 16), Nat.mod_eq_of_lt op.isLt, BitVec.ofNat_toNat, BitVec.setWidth_eq]

end Sys2Proof

/-! Memory as the fetch and the accesses at I meet it (20_memory.md R52 to R54, R60, R63): a word laid down where the next
step fetches, a store that reaches the next fetch, and the addresses that do not exist. -/

namespace Sys2Proof.Machine

/-! ### a word placed at the next fetch (log entry 7) -/

theorem State.withFetchWord_toNat (s : State) (op : Word) : s.withFetchWord 16 op.toNat = s.placeWord op := by
  rw [State.withFetchWord, fetchWordOf, tableWord_toNat, Option.getD_some]

theorem State.placeWord_running (s : State) (op : Word) : (s.placeWord op).status.halted = false := by
  simp only [State.placeWord]
  split
  next => rfl
  next h => exact Bool.eq_false_of_not_eq_true h

theorem State.placeWord_pc_le (s : State) (op : Word) : (s.placeWord op).pc.toNat ≤ 0xFFE := by
  simp only [State.placeWord]
  split
  next h => exact h
  next => decide

theorem State.placeWord_mem (s : State) (op : Word) :
    (s.placeWord op).mem = s.mem.writeBytes (s.placeWord op).pc.toNat [highByte op, lowByte op] := rfl

/-- The two bytes are read back at pc and pc + 1, high byte first (R53, R54). -/
theorem State.fetch_placeWord (s : State) (op : Word) : (s.placeWord op).fetch = some op := by
  have hpc := s.placeWord_pc_le op
  have hlast : (s.placeWord op).pc.toNat + [highByte op, lowByte op].length ≤ Config.memSize := by
    simp only [List.length_cons, List.length_nil, Config.memSize]; omega
  rw [State.fetch_of_le _ hpc, State.placeWord_mem, Memory.read_writeBytes _ _ _ _ hlast,
    Memory.read_writeBytes _ _ _ _ hlast]
  simp

theorem State.placeWord_of_running {s : State} (op : Word) (hs : s.status.halted = false) (hpc : s.pc.toNat ≤ 0xFFE) :
    s.placeWord op = { s with mem := (s.placeWord op).mem } := by
  simp only [State.placeWord, hs, if_pos hpc, Bool.false_eq_true, if_false]

/-- Settles O8: the placed word is fetched and decodes to the instruction it encodes. -/
theorem placedWordRuns : Obligations.PlacedWordRuns := by
  intro s i
  rw [State.withFetchWord_toNat]
  have hcurrent : (s.placeWord (encode i)).current = some i :=
    State.current_some.mpr ⟨s.placeWord_running _, _, s.fetch_placeWord _, decode_encode i⟩
  exact ⟨step_current hcurrent, State.placeWord_of_running (encode i)⟩

/-! ### a store that reaches the next fetch -/

/-- FX55 inside memory (R135). -/
theorem exec_storeRegs_of_le (x : RegNum) {s : State} (h : s.i.toNat + x.val ≤ 0xFFF) :
    exec (.storeRegs x) s = .next (s.store (s.regsTo x)).advance := s.withAccess_of_le x.val _ h

/-- V[k] stands at I + k after V0 to VX are stored (R135). -/
theorem State.read_store_regsTo {s : State} {x k : RegNum} (h : s.i.toNat + x.val ≤ 0xFFF) (hk : k ≤ x) :
    (s.store (s.regsTo x)).mem.read (s.address k.val) = s.reg k := by
  have hlen := s.regsTo_length x
  have hk' : k.val ≤ x.val := hk
  have hlast : s.address 0 + (s.regsTo x).length ≤ Config.memSize := by
    rw [hlen, State.address_zero]; simp only [Config.memSize]; omega
  have hin : s.address 0 ≤ s.address k.val ∧ s.address k.val < s.address 0 + (s.regsTo x).length := by
    simp only [hlen, State.address]; omega
  rw [State.store_mem, Memory.read_writeBytes _ _ _ _ hlast, dif_pos hin, State.regsTo_getElem]
  exact congrArg s.reg (Fin.ext (Nat.add_sub_cancel_left ..))

/-- Settles O31: the two bytes of the next word are two of the stored registers. -/
theorem storedOpcodeIsFetchedNext : Obligations.StoredOpcodeIsFetchedNext := by
  intro x k s hreach hkx hpc
  have hsucc : (k + 1).val = k.val + 1 := Fin.val_add_one_of_lt (hkx.trans_le (Fin.le_last x))
  have hle : (s.pc + 2).toNat ≤ 0xFFE := by
    rw [hpc, State.address]; have : k.val < x.val := hkx; omega
  have hlow : s.address k.val + 1 = s.address (k + 1).val := by rw [hsucc]; rfl
  refine ⟨_, exec_storeRegs_of_le x hreach, ?_⟩
  rw [State.fetch_of_le _ hle, State.advance_pc, State.store_pc, hpc, hlow, State.advance_mem,
    State.read_store_regsTo hreach hkx.le, State.read_store_regsTo hreach (Fin.add_one_le_of_lt hkx)]

/-! ### addresses that do not exist -/

/-- A step that leads a running core to a halt returns the condition that `status` records (R37). -/
theorem stepReport_of_halt {p : Config.TimerPolicy} {s t : State} {c : Cause} {w : Word}
    (h : cycle p s = .next (t.halt c w)) : stepReport p s = .fault c w := by
  simp only [stepReport, h, State.halt_status, if_true]

/-- Settles O10: no word is fetched above 0xFFE (R53). -/
theorem fetchOutsideMemoryHalts : Obligations.FetchOutsideMemoryHalts := by
  intro p s hs hpc
  have hc := cycle_of_fetch_outside p hs hpc
  exact ⟨hc, stepReport_of_halt hc⟩

/-- Settles O30: each of the four instructions tests its highest address before it writes anything (R63). -/
theorem accessBeyondMemoryHalts : Obligations.AccessBeyondMemoryHalts := by
  rintro x y n s _ rfl
  exact ⟨exec_ldB_of_gt x, fun h => ⟨exec_storeRegs_of_gt x h, exec_loadRegs_of_gt x h⟩, exec_drw_of_gt x y⟩

end Sys2Proof.Machine

/-! The two round trips between instructions and words (R70 to R74), the fields of a word (R71), and words written out from
the formats (R72). -/

namespace Sys2Proof

/-! ### the round trips -/

theorem decodeBytes_encodeBytes (i : Instr) (rest : List Byte) :
    decodeBytes (encodeBytes i ++ rest) = .ok (i, rest) := by
  simp only [encodeBytes, List.cons_append, List.nil_append, decodeBytes, wordOfBytes_bytes, decode_encode]

theorem decodeTableWord_encode (i : Instr) : decodeTableWord 16 (encode i).toNat = some i := by
  have hbytes : decodeBytes [highByte (encode i), lowByte (encode i)] = .ok (i, []) := decodeBytes_encodeBytes i []
  simp only [decodeTableWord, tableWord_toNat, hbytes]

/-- Settles O3: by word, by bytes and by the table's numbering. -/
theorem decodeOfEncode : Obligations.DecodeOfEncode := fun i rest =>
  ⟨decode_encode i, decodeBytes_encodeBytes i rest, decodeTableWord_encode i⟩

/-- Settles O4: each arm of the decode tree takes its operands from the fields of its format. -/
theorem encodeOfDecode : Obligations.EncodeOfDecode := fun _ _ h =>
  encode_of_decodeInstr (Machine.decode_ok.mp h)

/-- Settles O1: eleven fixed words, evaluated. -/
theorem writtenWordsDecode : Obligations.WrittenWordsDecode := by
  unfold Obligations.WrittenWordsDecode
  decide

/-! ### fields as masks and shifts (R71) -/

/-- A mask of `len` ones from bit `start` up, and the shift down to bit 0, take out a field. -/
theorem extractLsb'_eq_mask_shift (op mask : Word) {start len : Nat} (hm : mask.toNat = (2 ^ len - 1) <<< start) :
    (op.extractLsb' start len).toNat = ((op &&& mask) >>> start).toNat := by
  rw [BitVec.extractLsb'_toNat, BitVec.toNat_ushiftRight, BitVec.toNat_and, hm, Nat.shiftRight_and_distrib,
    Nat.shiftLeft_shiftRight, Nat.and_two_pow_sub_one_eq_mod]

theorem fieldClass_in_place (op : Word) : (fieldClass op).toNat * 0x1000 = (op &&& 0xF000).toNat := by
  have hmask : op &&& 0xF000 = formatXYN (fieldClass op) 0 0 0 := by
    conv_lhs => rw [word_eq_formatXYN op]
    exact mask_class _ _ _ _
  rw [hmask, formatXYN_toNat]
  simp

/-- Settles O2: the class stays in its place, the other fields are masked and shifted, and the overlaps are arithmetic. -/
theorem fieldsAreMaskedAndShifted : Obligations.FieldsAreMaskedAndShifted := by
  intro op
  refine ⟨fieldClass_in_place op, extractLsb'_eq_mask_shift op 0x0F00 rfl, extractLsb'_eq_mask_shift op 0x00F0 rfl,
    extractLsb'_eq_mask_shift op 0x000F rfl, extractLsb'_eq_mask_shift op 0x00FF rfl,
    extractLsb'_eq_mask_shift op 0x0FFF rfl, ?_, ?_⟩
  · rw [fieldNN_toNat, fieldY_val, fieldN_toNat]; omega
  · rw [fieldNNN_toNat, fieldX_val, fieldNN_toNat]; omega

end Sys2Proof

/-! The opcode map (R75) against the decoder: two words that agree in the bits the decode tree tests decode to instructions
of one mnemonic, and a row of the map fixes just those bits. -/

namespace Sys2Proof

/-! ### the bits the decode tree tests -/

/-- Two words agree in what the decode tree tests (R74): the class, and with it the whole word in class 0, n in classes 5, 8
and 9, nn in classes E and F. -/
structure SameTestedBits (a b : Word) : Prop where
  cls : fieldClass a = fieldClass b
  word : (fieldClass b).toNat = 0x0 → a = b
  n : (fieldClass b).toNat ∈ [0x5, 0x8, 0x9] → fieldN a = fieldN b
  nn : (fieldClass b).toNat ∈ [0xE, 0xF] → fieldNN a = fieldNN b

theorem mnemonic_decodeClass8 (n : Nat) (x y p q : RegNum) :
    (decodeClass8 n x y).map Instr.mnemonic = (decodeClass8 n p q).map Instr.mnemonic := by
  unfold decodeClass8
  split <;> rfl

theorem mnemonic_decodeClassE (nn : Nat) (x p : RegNum) :
    (decodeClassE nn x).map Instr.mnemonic = (decodeClassE nn p).map Instr.mnemonic := by
  unfold decodeClassE
  split <;> rfl

theorem mnemonic_decodeClassF (nn : Nat) (x p : RegNum) :
    (decodeClassF nn x).map Instr.mnemonic = (decodeClassF nn p).map Instr.mnemonic := by
  unfold decodeClassF
  split <;> rfl

/-- The operands have no part in which instruction a word is. The arms h_1 to h_16 are the classes 0 to F. -/
theorem SameTestedBits.mnemonic_eq {a b : Word} (h : SameTestedBits a b) :
    (decodeInstr a).map Instr.mnemonic = (decodeInstr b).map Instr.mnemonic := by
  obtain ⟨hclass, hword, hn, hnn⟩ := h
  simp only [decodeInstr, hclass]
  split
  case h_1 hc => rw [hword hc]
  case h_9 hc => rw [hn (by rw [hc]; decide)]; exact mnemonic_decodeClass8 _ _ _ _ _
  case h_15 hc => rw [hnn (by rw [hc]; decide)]; exact mnemonic_decodeClassE _ _ _
  case h_16 hc => rw [hnn (by rw [hc]; decide)]; exact mnemonic_decodeClassF _ _ _
  case h_6 hc | h_10 hc => rw [hn (by rw [hc]; decide)]; split <;> rfl
  all_goals rfl

/-! ### the rows of the map -/

/-- The mask of a row keeps the bits that the decode tree tests in the row's class (R72, R75). -/
theorem opcodeMap_mask : ∀ r ∈ opcodeMap, fieldClass r.mask = 0xF ∧
    ((fieldClass r.bits).toNat = 0x0 → r.mask = 0xFFFF) ∧
    ((fieldClass r.bits).toNat ∈ [0x5, 0x8, 0x9] → fieldN r.mask = 0xF) ∧
    ((fieldClass r.bits).toNat ∈ [0xE, 0xF] → fieldNN r.mask = 0xFF) := by decide

/-- The match of a row is itself a word of the row's instruction. -/
theorem opcodeMap_bits : ∀ r ∈ opcodeMap, (decodeInstr r.bits).map Instr.mnemonic = some r.mnemonic := by decide

theorem opcodeMap_nodup : (opcodeMap.map OpcodeRow.mnemonic).Nodup := by decide

/-- A field that a mask keeps whole is that of the masked word. -/
theorem extractLsb'_eq_of_and_eq {op mask bits : Word} {start len : Nat} (h : op &&& mask = bits)
    (hm : mask.extractLsb' start len = BitVec.allOnes len) : op.extractLsb' start len = bits.extractLsb' start len := by
  rw [← h, BitVec.extractLsb'_and, hm, BitVec.and_allOnes]

theorem SameTestedBits.of_covers {r : OpcodeRow} {op : Word} (hr : r ∈ opcodeMap) (h : r.covers op = true) :
    SameTestedBits op r.bits := by
  obtain ⟨hclass, hword, hn, hnn⟩ := opcodeMap_mask r hr
  have hbits : op &&& r.mask = r.bits := beq_iff_eq.mp h
  have hwhole : r.mask = 0xFFFF → op = r.bits := fun hm => by rw [← hbits, hm]; exact BitVec.and_allOnes.symm
  exact ⟨extractLsb'_eq_of_and_eq hbits hclass, hwhole ∘ hword, extractLsb'_eq_of_and_eq hbits ∘ hn,
    extractLsb'_eq_of_and_eq hbits ∘ hnn⟩

/-- A covered word decodes to an instruction of the row. -/
theorem OpcodeRow.decode_of_covers {r : OpcodeRow} {op : Word} (hr : r ∈ opcodeMap) (h : r.covers op = true) :
    ∃ i, decodeInstr op = some i ∧ i.mnemonic = r.mnemonic :=
  Option.map_eq_some_iff.mp ((SameTestedBits.of_covers hr h).mnemonic_eq.trans (opcodeMap_bits r hr))

/-- The word of every instruction is covered by the row of its mnemonic. -/
theorem legalEncoding (i : Instr) : Laws.LegalEncoding.Statement i := by
  open Laws.LegalEncoding in
  cases i
  exacts [cls, ret, jp _, call _, seImm _ _, sneImm _ _, seReg _ _, ldImm _ _, addImm _ _, ldReg _ _, orReg _ _,
    andReg _ _, xorReg _ _, addReg _ _, subReg _ _, shr _ _, subnReg _ _, shl _ _, sneReg _ _, ldI _, jpV0 _, rnd _ _,
    drw _ _ _, skp _, sknp _, ldVxDt _, ldVxK _, ldDtVx _, ldStVx _, addI _, ldF _, ldB _, storeRegs _, loadRegs _]

theorem exists_row_of_decode {op : Word} {i : Instr} (h : decodeInstr op = some i) :
    ∃ r ∈ opcodeMap, r.mnemonic = i.mnemonic ∧ r.covers op = true := by
  rw [← encode_of_decodeInstr h]
  exact legalEncoding i

/-- Settles O5: a row fixes the bits that the decoder tests, and the word of an instruction lies in the one row that bears its
mnemonic. -/
theorem opcodeMapIsTheDecoder : Obligations.OpcodeMapIsTheDecoder := by
  intro op r hr
  simp only [Machine.decode_ok]
  refine ⟨OpcodeRow.decode_of_covers hr, fun ⟨i, hi, hm⟩ => ?_⟩
  obtain ⟨q, hq, hqm, hcov⟩ := exists_row_of_decode hi
  have hqr : q = r := List.inj_on_of_nodup_map opcodeMap_nodup hq hr (hqm.trans hm)
  exact hqr ▸ hcov

/-! ### the illegal words -/

/-- A word decodes to nothing exactly when no row covers it (R76). -/
theorem decodeInstr_none_iff_wellFormedWord (op : Word) : decodeInstr op = none ↔ wellFormedWord op = false := by
  rw [wellFormedWord, List.any_eq_false]
  constructor
  · intro h r hr hcov
    obtain ⟨i, hi, _⟩ := OpcodeRow.decode_of_covers hr hcov
    exact nomatch h.symm.trans hi
  · intro h
    cases hd : decodeInstr op with
    | none => rfl
    | some i =>
      obtain ⟨r, hr, _, hcov⟩ := exists_row_of_decode hd
      exact absurd hcov (h r hr)

theorem ne_of_decodeClass0_none {op : Word} (h : decodeClass0 op = none) : op ≠ 0x00E0 ∧ op ≠ 0x00EE := by
  constructor <;> rintro rfl <;> exact nomatch h

theorem mem_of_decodeClass8_none {n : Nibble} {x y : RegNum} (h : decodeClass8 n.toNat x y = none) :
    n.toNat ∈ [0x8, 0x9, 0xA, 0xB, 0xC, 0xD, 0xF] := by
  have hlt := n.isLt
  unfold decodeClass8 at h
  split at h
  case h_10 => simp only [imp_false, List.mem_cons, List.not_mem_nil, or_false] at *; omega
  all_goals exact nomatch h

theorem notMem_of_decodeClassE_none {nn : Nat} {x : RegNum} (h : decodeClassE nn x = none) : nn ∉ [0x9E, 0xA1] := by
  simp only [List.mem_cons, List.not_mem_nil, or_false]
  rintro (rfl | rfl) <;> exact nomatch h

theorem notMem_of_decodeClassF_none {nn : Nat} {x : RegNum} (h : decodeClassF nn x = none) :
    nn ∉ [0x07, 0x0A, 0x15, 0x18, 0x1E, 0x29, 0x33, 0x55, 0x65] := by
  simp only [List.mem_cons, List.not_mem_nil, or_false]
  rintro (rfl | rfl | rfl | rfl | rfl | rfl | rfl | rfl | rfl) <;> exact nomatch h

theorem ne_zero_of_ite_none {n : Nibble} {i : Instr} (h : (if n = 0 then some i else none) = none) : n ≠ 0 :=
  fun hn => nomatch (if_pos hn).symm.trans h

/-- The words that decode to nothing are those of R76, class by class. -/
theorem illegalByClass_of_decodeInstr_none {op : Word} (h : decodeInstr op = none) : Machine.illegalByClass op := by
  simp only [decodeInstr] at h
  split at h
  case h_1 hc => exact .inl ⟨hc, ne_of_decodeClass0_none h⟩
  case h_6 hc => exact .inr (.inl ⟨hc, ne_zero_of_ite_none h⟩)
  case h_9 hc => exact .inr (.inr (.inl ⟨hc, mem_of_decodeClass8_none h⟩))
  case h_10 hc => exact .inr (.inr (.inr (.inl ⟨hc, ne_zero_of_ite_none h⟩)))
  case h_15 hc => exact .inr (.inr (.inr (.inr (.inl ⟨hc, notMem_of_decodeClassE_none h⟩))))
  case h_16 hc => exact .inr (.inr (.inr (.inr (.inr ⟨hc, notMem_of_decodeClassF_none h⟩))))
  case h_17 =>
    have hlt := (fieldClass op).isLt
    simp only [imp_false] at *
    omega
  all_goals exact nomatch h

theorem decodeInstr_none_iff_illegalByClass (op : Word) : decodeInstr op = none ↔ Machine.illegalByClass op :=
  ⟨illegalByClass_of_decodeInstr_none, decodeInstr_of_illegalByClass⟩

/-- Settles O6: all three say that the word decodes to nothing. -/
theorem illegalWordsByClass : Obligations.IllegalWordsByClass := by
  intro op
  rw [Machine.decode_error, ← decodeInstr_none_iff_illegalByClass, ← decodeInstr_none_iff_wellFormedWord]
  exact ⟨and_iff_left rfl, Iff.rfl⟩

end Sys2Proof

/-! Control transfer (40_flow.md R90 to R94): a jump to a target that the next fetch alone checks, the slot a call pushes its
own address on, and the return to two past the address in the top slot. -/

namespace Sys2Proof.Machine

/-! ### jumps -/

/-- A jump writes pc only, and its target is checked by the next fetch (R53, R92, R94). -/
theorem State.complete_setPc (s : State) {w : Word} {n : Nat} (hw : w.toNat = n) :
    ∃ t, complete (s.setPc w) = .next t ∧ t.pc.toNat = n ∧ t = { s with pc := t.pc } ∧
      (t.fetch = none ↔ 0xFFE < n) :=
  ⟨s.setPc w, rfl, hw, rfl, hw ▸ (s.setPc w).fetch_none⟩

/-- An address and a byte sum to less than 65536, so the sum at 16 bits is the sum (R94). -/
theorem extendAddr_add_extendByte_toNat (nnn : Addr) (b : Byte) :
    (extendAddr nnn + extendByte b).toNat = nnn.toNat + b.toNat := by
  have := nnn.isLt
  have := b.isLt
  rw [BitVec.toNat_add, extendAddr_toNat, extendByte_toNat]
  omega

/-- Settles O15: each word is the one its jump is encoded as, and each target is the jump's unreduced number. -/
theorem jumpResults : Obligations.JumpResults := fun nnn s =>
  ⟨decode_encode (.jp nnn), decode_encode (.jpV0 nnn), s.complete_setPc (extendAddr_toNat nnn),
    s.complete_setPc (extendAddr_add_extendByte_toNat nnn (s.reg 0))⟩

/-! ### calls and returns -/

/-- A call with a free slot pushes its own address (R93). -/
theorem exec_call_of_free (nnn : Addr) {s : State} (h : s.sp.val < 16) :
    exec (.call nnn) s = .next { s with
      stack := s.stack.set s.sp.val s.pc h, sp := ⟨s.sp.val + 1, Nat.succ_lt_succ h⟩, pc := extendAddr nnn } := by
  show execCall nnn s = _
  rw [execCall, s.push_of_lt s.pc h]
  rfl

/-- A return whose top slot is k goes on two past the address there (R91). -/
theorem exec_ret_of_top {s : State} {k : Fin 16} (h : k.val + 1 = s.sp.val) :
    exec .ret s = .next { s with sp := k.castSucc, pc := s.stack.get k + 2 } := by
  have hk : s.sp.val - 1 = k.val := by omega
  show execRet s = _
  simp only [execRet, s.pop_of_pos (by omega), hk]
  rfl

/-- A write to one slot of the call stack, read back slot by slot (R26). -/
theorem get_set_slot (stack : Vector Word 16) (n : Nat) (w : Word) (h : n < 16) (k : Fin 16) :
    (stack.set n w h).get k = if k.val = n then w else stack.get k := by
  simp only [Vector.get_eq_getElem, Vector.getElem_set, eq_comm]

/-- Settles O16: the slot at the old SP is the one that is written. -/
theorem callPushesItsAddress : Obligations.CallPushesItsAddress := fun nnn s h =>
  ⟨_, exec_call_of_free nnn h, rfl, extendAddr_toNat nnn, get_set_slot s.stack s.sp.val s.pc h, rfl⟩

/-- Settles O17: the top slot is the one below SP, and it is only read. -/
theorem returnPops : Obligations.ReturnPops := by
  intro s h
  have htop : s.sp.val - 1 + 1 = s.sp.val := Nat.sub_add_cancel h
  exact ⟨_, ⟨s.sp.val - 1, by omega⟩, exec_ret_of_top htop, htop, rfl, BitVec.toNat_add .., rfl⟩

/-- Settles O18: the slot that the call wrote is the top one, and the return reads the call's address there. -/
theorem callThenReturn : Obligations.CallThenReturn := by
  intro nnn s h
  have hslot := get_set_slot s.stack s.sp.val s.pc h
  refine ⟨_, _, exec_call_of_free nnn h, exec_ret_of_top (k := ⟨s.sp.val, h⟩) rfl, ?_, ?_, rfl⟩
  · simp only [hslot, if_true]
    exact BitVec.toNat_add ..
  · intro k hk
    exact (hslot k).trans (if_neg hk)

end Sys2Proof.Machine

/-! Skips (41_skip.md R101 to R106): pc goes on by 4 or by 2 as one truth value says, which is a comparison or the latch that
VX names. -/

namespace Sys2Proof.Machine

/-! ### the two senses of a skip -/

section

variable {P : Prop} [Decidable P] {c : Bool}

/-- An instruction that skips when `P` holds. -/
theorem complete_skipIf_of_iff (s : State) (h : c = true ↔ P) :
    complete (s.skipIf c) = .next { s with pc := if P then s.pc + 4 else s.pc + 2 } := by
  simp only [← h]
  rfl

/-- An instruction that skips when `P` fails. -/
theorem complete_skipIf_of_false_iff (s : State) (h : c = false ↔ P) :
    complete (s.skipIf c) = .next { s with pc := if P then s.pc + 2 else s.pc + 4 } := by
  have hnot : c = true ↔ ¬ P := by rw [← h, Bool.not_eq_false]
  rw [complete_skipIf_of_iff s hnot, ite_not]

end

/-! ### the comparing skips -/

/-- The words of classes 5 and 9 with n != 0 are illegal (R76). -/
theorem decode_formatXYN_of_ne_zero {c : Nibble} (hc : c = 0x5 ∨ c = 0x9) (x y : RegNum) {n : Nibble} (hn : n ≠ 0) :
    decode (formatXYN c x y n) = .error (.unknownOpcode (formatXYN c x y n)) := by
  have hill : illegalByClass (formatXYN c x y n) := by
    simp only [illegalByClass, fieldClass_formatXYN, fieldN_formatXYN]
    obtain rfl | rfl := hc
    · exact .inr (.inl ⟨rfl, hn⟩)
    · exact .inr (.inr (.inr (.inl ⟨rfl, hn⟩)))
  exact decode_error.mpr ⟨decodeInstr_of_illegalByClass hill, rfl⟩

/-- Settles O20: each legal word is the one its skip is encoded as, SE skips on the equality and SNE on its failure. -/
theorem skipResults : Obligations.SkipResults := fun x y nn s =>
  ⟨⟨decode_encode (.seImm x nn), complete_skipIf_of_iff s beq_iff_eq⟩,
    ⟨decode_encode (.sneImm x nn), complete_skipIf_of_false_iff s bne_eq_false_iff_eq⟩,
    ⟨decode_encode (.seReg x y), complete_skipIf_of_iff s beq_iff_eq⟩,
    ⟨decode_encode (.sneReg x y), complete_skipIf_of_false_iff s bne_eq_false_iff_eq⟩,
    fun _ hn => ⟨decode_formatXYN_of_ne_zero (.inl rfl) x y hn, decode_formatXYN_of_ne_zero (.inr rfl) x y hn⟩⟩

/-! ### the skips on a latch -/

theorem State.latchOf_of_eq (s : State) {x : RegNum} {k : Fin 16} (h : (s.reg x).toNat = k.val) :
    s.latchOf x = some (s.key.get k) := by
  have hlt : (s.reg x).toNat < 16 := h ▸ k.isLt
  have hk : (⟨(s.reg x).toNat, hlt⟩ : Fin 16) = k := Fin.ext h
  rw [s.latchOf_of_lt x hlt, hk]

/-- EX9E with VX naming a latch (R105). -/
theorem exec_skp_of_latchOf {x : RegNum} {s : State} {pressed : Bool} (h : s.latchOf x = some pressed) :
    exec (.skp x) s = complete (s.skipIf pressed) := by
  show execSkp x s = _
  rw [execSkp, h]

/-- EXA1 with VX naming a latch (R106). -/
theorem exec_sknp_of_latchOf {x : RegNum} {s : State} {pressed : Bool} (h : s.latchOf x = some pressed) :
    exec (.sknp x) s = complete (s.skipIf (!pressed)) := by
  show execSknp x s = _
  rw [execSknp, h]

/-- Settles O21: the latch that VX names is the truth value of EX9E, and its negation that of EXA1. -/
theorem keySkipResults : Obligations.KeySkipResults := by
  intro x k s h
  have hlatch := s.latchOf_of_eq h
  rw [exec_skp_of_latchOf hlatch, exec_sknp_of_latchOf hlatch]
  exact ⟨complete_skipIf_of_iff s Iff.rfl, complete_skipIf_of_false_iff s (Bool.not_eq_false' _).to_iff⟩

/-- Settles O22: VX above 0xF names no latch, so both raise before they skip. -/
theorem keyIndexAboveFHalts : Obligations.KeyIndexAboveFHalts := fun x _ h =>
  ⟨exec_skp_of_gt x h, exec_sknp_of_gt x h⟩

end Sys2Proof.Machine

/-! Load, arithmetic and logic (42_alu.md R110 to R121): a result lands in VX, after the flag where there is one, and each
result and each flag is the number the spec gives it. -/

namespace Sys2Proof.Machine

/-! ### where a result and a flag land -/

/-- A result without a flag writes VX alone (R110). -/
theorem State.complete_result (s : State) {x : RegNum} {b : Byte} {value : Nat} (hb : b.toNat = value) :
    ∃ t, complete (s.result x b) = .next t ∧ SetsReg s t x value := by
  have hreg (r : RegNum) : (s.result x b).reg r = if r = x then b else s.reg r := s.reg_setReg x r b
  refine ⟨_, rfl, ?_, fun r hr => ?_, rfl⟩
  · rw [hreg, if_pos rfl, hb]
  · rw [hreg, if_neg hr]

/-- A flag is written before its result, so the flag stays unless VX is VF (R110). -/
theorem State.complete_flagResult (s : State) {f : Bool} {x : RegNum} {b : Byte} {value flag : Nat}
    (hb : b.toNat = value) (hf : (flagByte f).toNat = flag) :
    ∃ t, complete (s.flagResult f x b) = .next t ∧ SetsRegAndFlag s t x value flag := by
  have hreg (r : RegNum) :
      (s.flagResult f x b).reg r = if r = x then b else if r = regVF then flagByte f else s.reg r :=
    ((s.setFlag f).reg_setReg x r b).trans (by rw [s.reg_setFlag])
  refine ⟨_, rfl, ?_, fun hx => ?_, fun r hr hvf => ?_, rfl⟩
  · rw [hreg, if_pos rfl, hb]
  · rw [hreg, if_neg hx.symm, if_pos rfl, hf]
  · rw [hreg, if_neg hr, if_neg hvf]

/-! ### results as numbers -/

/-- A difference modulo 256, on unreduced integers (R9, R118, R120). -/
theorem byte_sub_toNat (a b : Byte) : (a - b).toNat = (a.toNat + 256 - b.toNat) % 256 := by
  have := b.isLt
  rw [BitVec.toNat_sub]
  omega

/-- A right shift by one halves (R119). -/
theorem byte_shiftRight_one_toNat (b : Byte) : (b >>> 1).toNat = b.toNat / 2 := by
  rw [BitVec.toNat_ushiftRight, Nat.shiftRight_one]

/-- A left shift by one doubles modulo 256 (R121). -/
theorem byte_shiftLeft_one_toNat (b : Byte) : (b <<< 1).toNat = b.toNat * 2 % 256 := by
  rw [BitVec.toNat_shiftLeft, Nat.shiftLeft_eq]

/-! ### flags as numbers -/

/-- The flag of a comparison: carry and absence of a borrow (R117, R118, R120). -/
theorem flagByte_decide_toNat (P : Prop) [Decidable P] : (flagByte (decide P)).toNat = if P then 1 else 0 := by
  simp only [flagByte_toNat, decide_eq_true_eq]

/-- The flag of a bit of a byte: the bit shifted out (R119, R121). -/
theorem flagByte_getLsbD_toNat (b : Byte) (k : Nat) : (flagByte (b.getLsbD k)).toNat = b.toNat / 2 ^ k % 2 := by
  rw [flagByte_toNat, BitVec.getLsbD, ← Nat.toNat_testBit, Bool.toNat, Bool.cond_eq_ite]

theorem flagByte_shiftedOutRight_toNat (b : Byte) : (flagByte (shiftedOutRight b)).toNat = b.toNat % 2 := by
  rw [shiftedOutRight, flagByte_getLsbD_toNat, pow_zero, Nat.div_one]

theorem flagByte_shiftedOutLeft_toNat (b : Byte) : (flagByte (shiftedOutLeft b)).toNat = b.toNat / 128 := by
  have := b.isLt
  rw [shiftedOutLeft, flagByte_getLsbD_toNat]
  omega

/-! ### the instructions -/

/-- Settles O24: five pairs of a result and a flag, each the number R117 to R121 give it. -/
theorem flagArithmeticResults : Obligations.FlagArithmeticResults := fun _ _ s =>
  ⟨s.complete_flagResult (BitVec.toNat_add ..) (flagByte_decide_toNat _),
    s.complete_flagResult (byte_sub_toNat ..) (flagByte_decide_toNat _),
    s.complete_flagResult (byte_sub_toNat ..) (flagByte_decide_toNat _),
    s.complete_flagResult (byte_shiftRight_one_toNat _) (flagByte_shiftedOutRight_toNat _),
    s.complete_flagResult (byte_shiftLeft_one_toNat _) (flagByte_shiftedOutLeft_toNat _)⟩

/-- Settles O23: each word is the one its instruction is encoded as, and each result goes to VX without a flag. -/
theorem loadAndLogicResults : Obligations.LoadAndLogicResults := fun x y nn s =>
  ⟨⟨decode_encode (.ldImm x nn), s.complete_result rfl⟩,
    ⟨decode_encode (.addImm x nn), s.complete_result (BitVec.toNat_add ..)⟩,
    ⟨decode_encode (.ldReg x y), s.complete_result rfl⟩,
    ⟨decode_encode (.orReg x y), s.complete_result (BitVec.toNat_or ..)⟩,
    ⟨decode_encode (.andReg x y), s.complete_result (BitVec.toNat_and ..)⟩,
    ⟨decode_encode (.xorReg x y), s.complete_result (BitVec.toNat_xor ..)⟩⟩

end Sys2Proof.Machine

/-! Index register, loads and stores (43_index_mem.md R131 to R136): the value I receives, the bytes a store from I on leaves
in memory, and the registers a load from I on fills. -/

namespace Sys2Proof.Machine

/-! ### the index register -/

/-- An instruction that writes I writes no flag and goes on to the next one (R131 to R133). -/
theorem State.complete_setI (s : State) {w : Word} {value : Nat} (hw : w.toNat = value) :
    ∃ t, complete (s.setI w).advance = .next t ∧ t.i.toNat = value ∧ t = { s with i := t.i, pc := s.pc + 2 } :=
  ⟨_, rfl, hw, rfl⟩

/-- The whole byte times 5 stays below 65536 (R133). -/
theorem extendByte_mul_five_toNat (b : Byte) : (extendByte b * 5).toNat = b.toNat * 5 := by
  have := b.isLt
  rw [BitVec.toNat_mul, extendByte_toNat]
  have hsmall : b.toNat * 5 < 65536 := by omega
  exact Nat.mod_eq_of_lt hsmall

/-- A sum with a byte modulo 65536 (R132, D6). -/
theorem word_add_extendByte_toNat (w : Word) (b : Byte) :
    (w + extendByte b).toNat = (w.toNat + b.toNat) % 65536 := by
  rw [BitVec.toNat_add, extendByte_toNat]

/-- Settles O25: each word is the one its instruction is encoded as, and I receives nnn or five times the whole VX. -/
theorem indexLoadResults : Obligations.IndexLoadResults := fun nnn x s =>
  ⟨⟨decode_encode (.ldI nnn), s.complete_setI (extendAddr_toNat nnn)⟩,
    ⟨decode_encode (.ldF x), s.complete_setI (extendByte_mul_five_toNat (s.reg x))⟩⟩

/-- Settles O26: the sum at 16 bits is the sum modulo 65536. -/
theorem indexAddResult : Obligations.IndexAddResult := fun x s =>
  s.complete_setI (word_add_extendByte_toNat s.i (s.reg x))

/-! ### stores from I on -/

/-- The k-th byte of a store inside memory is read back at I + k (R52, R54). -/
theorem State.read_store {s : State} {bs : List Byte} {k : Nat} {b : Byte}
    (h : s.address 0 + bs.length ≤ Config.memSize) (hb : bs[k]? = some b) :
    (s.store bs).mem.read (s.address k) = b := by
  obtain ⟨hk, rfl⟩ := List.getElem?_eq_some_iff.mp hb
  have hin : s.address 0 ≤ s.address k ∧ s.address k < s.address 0 + bs.length :=
    ⟨Nat.add_le_add_left (Nat.zero_le k) _, Nat.add_lt_add_left hk _⟩
  have hoffset : s.address k - s.address 0 = k := Nat.add_sub_cancel_left ..
  rw [State.store_mem, Memory.read_writeBytes _ _ _ _ h, dif_pos hin]
  simp only [hoffset]

/-- A store from I to I + last leaves every byte below and above (R54). -/
theorem State.read_store_outside (s : State) {bs : List Byte} {last a : Nat} (hlen : bs.length = last + 1)
    (ha : a < s.address 0 ∨ s.address last < a) : (s.store bs).mem.read a = s.mem.read a := by
  refine Memory.read_writeBytes_outside bs _ _ a (ha.imp_right fun h => ?_)
  rw [hlen]
  exact h

/-- A decimal digit fits in a byte, so each stored digit is the number it stands for (R134). -/
theorem State.read_store_decimalDigits {s : State} (b : Byte) (h : s.i.toNat + 2 ≤ 0xFFF) :
    ((s.store (decimalDigits b)).mem.read (s.address 0)).toNat = b.toNat / 100 ∧
      ((s.store (decimalDigits b)).mem.read (s.address 1)).toNat = b.toNat / 10 % 10 ∧
      ((s.store (decimalDigits b)).mem.read (s.address 2)).toNat = b.toNat % 10 := by
  have hlast : s.address 0 + (decimalDigits b).length ≤ Config.memSize := Nat.succ_le_succ h
  have fits {n : Nat} (hn : n < 256) : (BitVec.ofNat 8 n).toNat = n := Nat.mod_eq_of_lt hn
  have := b.isLt
  refine ⟨?_, ?_, ?_⟩ <;> rw [State.read_store hlast rfl]
  · exact fits (by omega)
  · exact fits (by omega)
  · exact fits (by omega)

/-- FX33 inside memory (R134). -/
theorem exec_ldB_of_le (x : RegNum) {s : State} (h : s.i.toNat + 2 ≤ 0xFFF) :
    exec (.ldB x) s = .next (s.store (decimalDigits (s.reg x))).advance := s.withAccess_of_le 2 _ h

/-- Settles O27: the three stored bytes are the digits, read back one by one. -/
theorem decimalStoreResult : Obligations.DecimalStoreResult := by
  intro x s h
  obtain ⟨hhundreds, htens, hones⟩ := State.read_store_decimalDigits (s.reg x) h
  exact ⟨_, exec_ldB_of_le x h, hhundreds, htens, hones, fun _ => s.read_store_outside rfl, rfl⟩

/-- Settles O28: the stored bytes are V0 to VX, read back one by one. -/
theorem registerStoreResult : Obligations.RegisterStoreResult := fun x s h =>
  ⟨_, exec_storeRegs_of_le x h, fun _ => State.read_store_regsTo h,
    fun _ => s.read_store_outside (s.regsTo_length x), rfl⟩

/-! ### the load from I on -/

/-- FX65 inside memory (R136). -/
theorem exec_loadRegs_of_le (x : RegNum) {s : State} (h : s.i.toNat + x.val ≤ 0xFFF) :
    exec (.loadRegs x) s = .next (s.loadRegsTo x).advance := s.withAccess_of_le x.val _ h

/-- Settles O29: the load fills the registers up to VX, and it reads memory and I only. -/
theorem registerLoadResult : Obligations.RegisterLoadResult := fun x s h =>
  ⟨_, exec_loadRegs_of_le x h, s.reg_loadRegsTo x, rfl⟩

end Sys2Proof.Machine

/-! Display (44_display.md R140 to R142): clearing the screen, and a draw as one toggle for each pixel under a 1 bit of the
sprite. No pixel is visited twice (R142 b), so the framebuffer before the draw decides every toggle and every collision. -/

namespace Sys2Proof.Machine

/-- Settles O32: the new framebuffer is the clear one. -/
theorem clearScreenResult : Obligations.ClearScreenResult := fun _ => ⟨_, rfl, Frame.pixel_clear, rfl⟩

/-! ### toggling a list of pixels -/

/-- The pixels of a list plotted one after the other. -/
def Drawing.plots (d : Drawing) (ps : List (Fin 64 × Fin 32)) : Drawing := ps.foldl (fun d p => d.plot p.1 p.2) d

theorem Drawing.plots_cons (d : Drawing) (p : Fin 64 × Fin 32) (ps : List (Fin 64 × Fin 32)) :
    d.plots (p :: ps) = (d.plot p.1 p.2).plots ps := rfl

theorem Drawing.pixel_plot (d : Drawing) (p q : Fin 64 × Fin 32) :
    (d.plot p.1 p.2).1.pixel q.1 q.2 = if q = p then !d.1.pixel q.1 q.2 else d.1.pixel q.1 q.2 := by
  have hpixel := d.1.pixel_toggle p.1 q.1 p.2 q.2
  simp only [← Prod.ext_iff] at hpixel
  by_cases hqp : q = p
  · subst hqp
    exact hpixel
  · rw [if_neg hqp] at hpixel ⊢
    exact hpixel

/-- Pixels that are all different are toggled once each, and no other pixel is. -/
theorem Drawing.pixel_plots {ps : List (Fin 64 × Fin 32)} (h : ps.Nodup) (d : Drawing) (q : Fin 64 × Fin 32) :
    (d.plots ps).1.pixel q.1 q.2 = if q ∈ ps then !d.1.pixel q.1 q.2 else d.1.pixel q.1 q.2 := by
  induction ps generalizing d with
  | nil => rfl
  | cons p ps ih =>
    obtain ⟨hp, hps⟩ := List.nodup_cons.mp h
    rw [Drawing.plots_cons, ih hps, d.pixel_plot]
    by_cases hqp : q = p
    · subst hqp
      simp [hp]
    · simp [hqp]

/-- A collision is found exactly when one of the pixels was 1 before any of them was toggled. -/
theorem Drawing.collision_plots {ps : List (Fin 64 × Fin 32)} (h : ps.Nodup) (d : Drawing) :
    (d.plots ps).2 = true ↔ d.2 = true ∨ ∃ p ∈ ps, d.1.pixel p.1 p.2 = true := by
  induction ps generalizing d with
  | nil => simp [Drawing.plots]
  | cons p ps ih =>
    obtain ⟨hp, hps⟩ := List.nodup_cons.mp h
    have hlater : ∀ q ∈ ps, (d.plot p.1 p.2).1.pixel q.1 q.2 = d.1.pixel q.1 q.2 := fun q hq =>
      (d.pixel_plot p q).trans (if_neg fun (e : q = p) => hp (e ▸ hq))
    have hfirst : (d.plot p.1 p.2).2 = true ↔ d.2 = true ∨ d.1.pixel p.1 p.2 = true := Bool.or_eq_true_iff
    have htail : (∃ q ∈ ps, (d.plot p.1 p.2).1.pixel q.1 q.2 = true) ↔ ∃ q ∈ ps, d.1.pixel q.1 q.2 = true :=
      exists_congr fun q => and_congr_right fun hq => by rw [hlater q hq]
    rw [Drawing.plots_cons, ih hps, hfirst, htail, List.exists_mem_cons_iff, or_assoc]

/-! ### the pixels of a sprite -/

/-- The pixels under the 1 bits of the sprite at I, row by row and column by column (R140, R142). -/
def State.spritePixels (s : State) (x y : RegNum) (n : Nat) : List (Fin 64 × Fin 32) :=
  (((List.range n).product (List.range 8)).filter fun p => spriteBit (s.mem.read (s.address p.1)) p.2).map
    fun p => (spriteX (s.reg x) p.2, spriteY (s.reg y) p.1)

/-- No pixel is visited twice: 8 columns are fewer than 64 and 15 rows fewer than 32 (R142 b). -/
theorem State.nodup_spritePixels (s : State) (x y : RegNum) (n : Nibble) : (s.spritePixels x y n.toNat).Nodup := by
  refine List.Nodup.map_on ?_ ((List.nodup_range.product List.nodup_range).filter _)
  rintro ⟨r, c⟩ hp ⟨r', c'⟩ hq heq
  simp only [List.mem_filter, List.pair_mem_product, List.mem_range] at hp hq
  obtain ⟨hx, hy⟩ := Prod.mk.inj heq
  have hcol : ((s.reg x).toNat + c) % 64 = ((s.reg x).toNat + c') % 64 := congrArg Fin.val hx
  have hrow : ((s.reg y).toNat + r) % 32 = ((s.reg y).toNat + r') % 32 := congrArg Fin.val hy
  have hcc : c = c' := by omega
  have hrr : r = r' := by omega
  rw [hcc, hrr]

/-- The listed pixels are those the sprite's 1 bits lie on (R140). -/
theorem State.mem_spritePixels (s : State) (x y : RegNum) (n : Nat) (px : Fin 64) (py : Fin 32) :
    (px, py) ∈ s.spritePixels x y n ↔ Covers s x y n px py := by
  simp only [State.spritePixels, List.mem_map, List.mem_filter, Prod.exists, List.pair_mem_product, List.mem_range,
    Prod.mk.injEq, Fin.ext_iff, and_assoc]
  rfl

/-- The sprite's rows, numbered from r on, are drawn one after the other (R142). -/
theorem Drawing.rows_map_range' (d : Drawing) (vx vy : Byte) (rowByte : Nat → Byte) (r n : Nat) :
    d.rows vx vy r ((List.range' r n).map rowByte) =
      (List.range' r n).foldl (fun d r => d.row vx vy (rowByte r) r) d := by
  induction n generalizing d r with
  | zero => rfl
  | succ n ih => exact ih _ _

/-- A draw plots the pixels under the sprite's 1 bits (R142). -/
theorem State.drawing_eq_plots (s : State) (x y : RegNum) (n : Nat) :
    s.drawing x y n = Drawing.plots (s.fb, false) (s.spritePixels x y n) := by
  have hbytes : s.spriteBytes n = (List.range' 0 n).map fun r => s.mem.read (s.address r) := by
    rw [← List.range_eq_range']
    rfl
  rw [State.drawing, hbytes, Drawing.rows_map_range', ← List.range_eq_range']
  simp only [Drawing.plots, State.spritePixels, List.foldl_map, List.foldl_filter, List.product, List.foldl_flatMap,
    Drawing.row]

/-! ### the draw -/

/-- DXYN with its sprite inside memory, or with no row (R142 a). -/
theorem exec_drw_of_le (x y : RegNum) {n : Nibble} {s : State} (h : n = 0 ∨ s.i.toNat + (n.toNat - 1) ≤ 0xFFF) :
    exec (.drw x y n) s = .next (s.drawn (s.drawing x y n.toNat)) := by
  by_cases hn : n = 0
  · subst hn
    rfl
  · exact (if_neg hn).trans (s.withAccess_of_le _ _ (h.resolve_left hn))

/-- A draw toggles the covered pixels. -/
theorem State.pixel_drawing (s : State) (x y : RegNum) (n : Nibble) (px : Fin 64) (py : Fin 32) :
    (s.drawing x y n.toNat).1.pixel px py = true ↔
      (s.fb.pixel px py = true ∧ ¬ Covers s x y n.toNat px py) ∨ (s.fb.pixel px py = false ∧ Covers s x y n.toNat px py) := by
  rw [State.drawing_eq_plots, Drawing.pixel_plots (s.nodup_spritePixels x y n) _ (px, py), ← State.mem_spritePixels]
  split <;> simp [*]

/-- A draw collides exactly when a covered pixel was 1. -/
theorem State.collision_drawing (s : State) (x y : RegNum) (n : Nibble) :
    (s.drawing x y n.toNat).2 = true ↔ ∃ px py, s.fb.pixel px py = true ∧ Covers s x y n.toNat px py := by
  rw [State.drawing_eq_plots, Drawing.collision_plots (s.nodup_spritePixels x y n)]
  simp [← State.mem_spritePixels, and_comm]

theorem flagByte_eq_one (f : Bool) : flagByte f = 1 ↔ f = true := by cases f <;> decide

theorem flagByte_zero_or_one (f : Bool) : flagByte f = 0 ∨ flagByte f = 1 := by cases f <;> decide

theorem State.reg_drawn (s : State) (d : Drawing) (r : RegNum) :
    (s.drawn d).reg r = if r = regVF then flagByte d.2 else s.reg r := State.reg_setFlag { s with fb := d.1 } d.2 r

/-- Settles O33: the pixels plotted are those the sprite covers, each once. -/
theorem drawResult : Obligations.DrawResult := by
  intro x y n s h
  have hflag : (s.drawn (s.drawing x y n.toNat)).reg regVF = flagByte (s.drawing x y n.toNat).2 :=
    (s.reg_drawn _ _).trans (if_pos rfl)
  refine ⟨_, exec_drw_of_le x y h, s.pixel_drawing x y n, ?_, ?_, fun r hr => (s.reg_drawn _ _).trans (if_neg hr), rfl⟩
  · rw [hflag]
    exact flagByte_zero_or_one _
  · rw [hflag, flagByte_eq_one]
    exact s.collision_drawing x y n

/-! ### the same draw twice -/

/-- A draw that does not halt had its sprite inside memory, or no row (R63). -/
theorem drw_inside_of_status {x y : RegNum} {n : Nibble} {s t : State} (h : exec (.drw x y n) s = .next t)
    (ht : t.status.halted = false) : n = 0 ∨ s.i.toNat + (n.toNat - 1) ≤ 0xFFF := by
  by_contra hout
  obtain ⟨hn, hgt⟩ := not_or.mp hout
  have hpos : 1 ≤ n.toNat := Nat.pos_of_ne_zero fun e => hn (BitVec.eq_of_toNat_eq e)
  cases h.symm.trans (exec_drw_of_gt x y hpos (Nat.lt_of_not_le hgt))
  exact nomatch ht

/-- What a sprite covers is read from memory, I, VX and VY (R140). -/
theorem Covers.congr {s t : State} {x y : RegNum} (hmem : t.mem = s.mem) (hi : t.i = s.i) (hx : t.reg x = s.reg x)
    (hy : t.reg y = s.reg y) (n : Nat) (px : Fin 64) (py : Fin 32) : Covers t x y n px py ↔ Covers s x y n px py := by
  rw [Covers, hmem, hi, hx, hy]
  rfl

/-- A sprite covers some pixel exactly when it has a 1 bit: column c is bit 7 - c (R140). -/
theorem exists_covers_iff (s : State) (x y : RegNum) (n : Nat) :
    (∃ px py, Covers s x y n px py) ↔
      ∃ r c, r < n ∧ c < 8 ∧ (s.mem.read (s.i.toNat + r)).getLsbD c = true := by
  constructor
  · rintro ⟨-, -, r, c, hr, -, hbit, -, -⟩
    exact ⟨r, 7 - c, hr, by omega, hbit⟩
  · rintro ⟨r, c, hr, hc, hbit⟩
    have hcol : 7 - (7 - c) = c := by omega
    exact ⟨spriteX (s.reg x) (7 - c), spriteY (s.reg y) r, r, 7 - c, hr, by omega, by rwa [hcol], rfl, rfl⟩

/-- Settles O34: both draws cover the same pixels, and toggling twice restores each of them. -/
theorem drawTwiceRestores : Obligations.DrawTwiceRestores := by
  intro x y n s t hdraw hstatus hrunning hx hy
  have hin := drw_inside_of_status hdraw (hstatus ▸ hrunning)
  obtain ⟨t', hfirst, hpixel, -, -, -, hframe⟩ := drawResult x y n s hin
  cases hdraw.symm.trans hfirst
  have hmem : t.mem = s.mem := by rw [hframe]
  have hi : t.i = s.i := by rw [hframe]
  have hcovers := Covers.congr hmem hi hx hy n.toNat
  obtain ⟨u, hsecond, hpixel', -, hflag, -, -⟩ := drawResult x y n t (hi ▸ hin)
  have hset (px : Fin 64) (py : Fin 32) : (t.fb.pixel px py = true ∧ Covers t x y n.toNat px py) ↔
      (s.fb.pixel px py = false ∧ t.fb.pixel px py = true) := by
    rw [hcovers, hpixel]
    cases s.fb.pixel px py <;> simp
  have hvf : u.reg regVF = 1 ↔ ∃ px py, s.fb.pixel px py = false ∧ t.fb.pixel px py = true := by
    simp only [hflag, hset]
  refine ⟨u, hsecond, Frame.ext_of_pixel _ _ fun px py => ?_, hvf, fun hclear => ?_⟩
  · rw [Bool.eq_iff_iff, hpixel', ← Bool.not_eq_true, hcovers, hpixel]
    by_cases hc : Covers s x y n.toNat px py <;> simp [hc]
  · rw [hvf, ← exists_covers_iff s x y]
    simp [hpixel, hclear]

end Sys2Proof.Machine

/-! Timers, key wait and random (45_timer_key_rnd.md R151 to R155): a timer after some ticks, the tone as a number of ST, the key
FX0A reports, and the two sources of a random byte. -/

namespace Sys2Proof.Machine

/-! ### the timers -/

/-- Ticks take 1 each from DT until it is 0 (R174). -/
theorem State.ticks_dt_toNat (k : Nat) (s : State) : (State.ticks k s).dt.toNat = s.dt.toNat - k := by
  induction k generalizing s with
  | zero => rfl
  | succ k ih =>
    calc (State.ticks k s.tick).dt.toNat = (countDown s.dt).toNat - k := ih s.tick
      _ = s.dt.toNat - 1 - k := by rw [countDown_toNat]
      _ = s.dt.toNat - (k + 1) := Nat.sub_right_comm ..

theorem State.toneActive_iff (s : State) : s.toneActive = true ↔ s.st.toNat ≠ 0 :=
  bne_iff_ne.trans BitVec.toNat_ne

theorem State.toneFired_iff (s : State) : s.toneFired = true ↔ s.st.toNat = 1 :=
  beq_iff_eq.trans BitVec.toNat_eq

/-- A `decoupled` step that runs an instruction goes to the state the instruction leaves, without the input `rnd` (R36, R176). -/
theorem react_step_decoupled {r : Byte} {s t : State} {i : Instr} (hc : s.current = some i)
    (ht : exec i (s.supplyRnd r) = .next t) : react .decoupled (.step r) s = .next t.dropRnd := by
  have hc' : (s.supplyRnd r).current = some i := hc
  have hcycle : cycle .decoupled (s.supplyRnd r) = .next t := (step_current hc').trans ht
  simp only [react, stepRnd, hcycle]

/-- A `decoupled` step fires no tone, and an instruction that leaves `status` and does not wait completes (R37, R176). -/
theorem output_step_decoupled {r : Byte} {s t : State} {i : Instr} (hc : s.current = some i)
    (ht : exec i (s.supplyRnd r) = .next t) (hstatus : t.status = s.status)
    (hw : Instr.waits i (s.supplyRnd r) = false) : output .decoupled (.step r) s = .outcome .ok false := by
  have hc' : (s.supplyRnd r).current = some i := hc
  have hrunning : t.status.halted = false := hstatus ▸ (State.current_some.mp hc).1
  have hreport : reportOf i (s.supplyRnd r) t = .ok := by
    simp only [reportOf, hrunning, hw, Bool.false_eq_true, if_false]
  rw [output, stepReport_current _ hc' ht, hreport, stepTone_decoupled]

/-- Settles O36: each word is the one its instruction is encoded as, and a tick counts down the timer that was written. -/
theorem timerInstructionResults : Obligations.TimerInstructionResults := fun x s =>
  ⟨⟨decode_encode (.ldVxDt x), s.complete_result rfl,
      fun k => (State.ticks k s).complete_result (s.ticks_dt_toNat k)⟩,
    ⟨decode_encode (.ldDtVx x), _, rfl, rfl, countDown_toNat (s.reg x)⟩,
    ⟨decode_encode (.ldStVx x), _, rfl, rfl, State.toneActive_iff _, State.toneFired_iff _⟩,
    fun _ hc => ⟨react_step_decoupled hc rfl, output_step_decoupled hc rfl rfl rfl⟩⟩

/-! ### the random byte -/

/-- CXNN masks the byte of the input, or the free one, and uses it up (R151). -/
theorem exec_rnd (x : RegNum) (nn : Byte) (s : State) :
    ∃ t, exec (.rnd x nn) s = .next t ∧ t.reg x = s.rndByte &&& nn ∧ (∀ q, q ≠ x → t.reg q = s.reg q) ∧
      t = { s.consumeRnd with v := t.v, pc := s.pc + 2 } := by
  refine ⟨_, rfl, s.consumeRnd.reg_setReg_self x _, fun q hq => ?_, ?_⟩
  · exact (s.consumeRnd.reg_setReg_other x q _ hq).trans (s.reg_consumeRnd q)
  · rw [← s.consumeRnd_pc]
    rfl

/-- With no byte supplied, only the count of free bytes goes on (log entry 2). -/
theorem State.consumeRnd_of_none {s : State} (h : s.rndIn = none) : s.consumeRnd = { s with draws := s.draws + 1 } := by
  simp only [State.consumeRnd, h]

/-- Settles O35: a supplied byte is the one that is masked, and without one the byte is free. -/
theorem randomByteResult : Obligations.RandomByteResult := by
  refine fun x nn r s => ⟨exec_rnd x nn (s.supplyRnd r), fun h => ?_⟩
  obtain ⟨t, ht, hx, hother, hframe⟩ := exec_rnd x nn s
  rw [State.consumeRnd_of_none h] at hframe
  exact ⟨t, s.rndByte, ht, hx, hother, hframe⟩

/-! ### the key wait -/

theorem exists_keySelect {k : Keys} {j : RegNum} (h : k.get j = true) : ∃ q, keySelect k = some q :=
  Option.ne_none_iff_exists'.mp fun hnone => Bool.false_ne_true (((keySelect_none k).mp hnone j).symm.trans h)

/-- FX0A with a key to report: a key index fits in a byte (R153). -/
theorem exec_ldVxK_of_keySelect (x : RegNum) {s : State} {j : RegNum} (h : keySelect s.key = some j) :
    ∃ t, exec (.ldVxK x) s = .next t ∧ SetsReg s t x j.val := by
  have hj : (BitVec.ofNat 8 j.val).toNat = j.val := Nat.mod_eq_of_lt (j.isLt.trans (by decide))
  have hexec : exec (.ldVxK x) s = complete (s.result x (BitVec.ofNat 8 j.val)) := by
    show execLdVxK x s = _
    rw [execLdVxK, h]
    rfl
  exact hexec ▸ s.complete_result hj

/-- Settles O37: with no latch set FX0A waits, and the key it else reports is a pressed one. -/
theorem keyWaitResult : Obligations.KeyWaitResult := by
  refine fun x s => ⟨fun hnone => exec_of_waits ((Instr.waits_iff _ s).mpr ⟨⟨x, rfl⟩, hnone⟩), fun k hk => ?_⟩
  obtain ⟨j, hj⟩ := exists_keySelect hk
  obtain ⟨t, ht, hset⟩ := exec_ldVxK_of_keySelect x hj
  have hpressed := keySelect_pressed hj
  exact ⟨t, j, ht, hpressed, hset, fun honly => honly j hpressed⟩

end Sys2Proof.Machine

/-! Fatal conditions (60_exceptions.md R160 to R171): the eight instructions that raise, each under its own condition, and the
steps that halt. -/

namespace Sys2Proof.Machine

/-! ### the table of R160 -/

/-- The rows of the table of R160 that EXECUTE meets: the instruction, run in s, raises the cause with the info. -/
inductive Raises (s : State) : Instr → Cause → Word → Prop
  | call (nnn : Addr) (h : s.sp.val = 16) : Raises s (.call nnn) .stackOverflow (encode (.call nnn))
  | ret (h : s.sp.val = 0) : Raises s .ret .stackUnderflow (encode .ret)
  | ldB (x : RegNum) (h : 0xFFF < s.i.toNat + 2) : Raises s (.ldB x) .addressFaultData s.i
  | storeRegs (x : RegNum) (h : 0xFFF < s.i.toNat + x.val) : Raises s (.storeRegs x) .addressFaultData s.i
  | loadRegs (x : RegNum) (h : 0xFFF < s.i.toNat + x.val) : Raises s (.loadRegs x) .addressFaultData s.i
  | drw (x y : RegNum) {n : Nibble} (hn : 1 ≤ n.toNat) (h : 0xFFF < s.i.toNat + (n.toNat - 1)) :
      Raises s (.drw x y n) .addressFaultData s.i
  | skp (x : RegNum) (h : 0xF < (s.reg x).toNat) : Raises s (.skp x) .keyIndexFault (encode (.skp x))
  | sknp (x : RegNum) (h : 0xF < (s.reg x).toNat) : Raises s (.sknp x) .keyIndexFault (encode (.sknp x))

theorem exec_of_raises {s : State} {i : Instr} {c : Cause} {w : Word} (h : Raises s i c w) :
    exec i s = .next (s.halt c w) := by
  cases h with
  | call nnn h => exact exec_call_of_full nnn h
  | ret h => exact exec_ret_of_empty h
  | ldB x h => exact exec_ldB_of_gt x h
  | storeRegs x h => exact exec_storeRegs_of_gt x h
  | loadRegs x h => exact exec_loadRegs_of_gt x h
  | drw x y hn h => exact exec_drw_of_gt x y hn h
  | skp x h => exact exec_skp_of_gt x h
  | sknp x h => exact exec_sknp_of_gt x h

/-- An occupied call stack has a top slot (R26). -/
theorem State.exists_top {s : State} (h : s.sp.val ≠ 0) : ∃ k : Fin 16, k.val + 1 = s.sp.val :=
  ⟨⟨s.sp.val - 1, by omega⟩, Nat.sub_add_cancel (Nat.pos_of_ne_zero h)⟩

theorem State.sp_lt_of_ne {s : State} (h : s.sp.val ≠ 16) : s.sp.val < 16 := by
  have := s.sp.isLt
  omega

/-- An instruction that meets no row of the table completes (R169). -/
theorem raises_or_completes (i : Instr) (s : State) :
    (∃ c w, Raises s i c w) ∨ ∃ t, exec i s = .next t ∧ t.status = s.status := by
  cases i with
  | cls | jp | jpV0 | seImm | sneImm | seReg | sneReg => exact .inr ⟨_, rfl, rfl⟩
  | ldImm | addImm | ldReg | orReg | andReg | xorReg | addReg | subReg | shr | subnReg | shl => exact .inr ⟨_, rfl, rfl⟩
  | ldI | addI | ldF | ldVxDt | ldDtVx | ldStVx => exact .inr ⟨_, rfl, rfl⟩
  | rnd x nn => exact .inr ⟨_, rfl, s.consumeRnd_status⟩
  | ldVxK x =>
    cases h : keySelect s.key with
    | none => exact .inr ⟨s, exec_of_waits ((Instr.waits_iff _ s).mpr ⟨⟨x, rfl⟩, (keySelect_none _).mp h⟩), rfl⟩
    | some k =>
      obtain ⟨t, ht, _, _, hframe⟩ := exec_ldVxK_of_keySelect x h
      exact .inr ⟨t, ht, by rw [hframe]⟩
  | call nnn =>
    by_cases h : s.sp.val = 16
    · exact .inl ⟨_, _, .call nnn h⟩
    · exact .inr ⟨_, exec_call_of_free nnn (State.sp_lt_of_ne h), rfl⟩
  | ret =>
    by_cases h : s.sp.val = 0
    · exact .inl ⟨_, _, .ret h⟩
    · obtain ⟨k, hk⟩ := State.exists_top h
      exact .inr ⟨_, exec_ret_of_top hk, rfl⟩
  | ldB x =>
    rcases Nat.lt_or_ge 0xFFF (s.i.toNat + 2) with h | h
    · exact .inl ⟨_, _, .ldB x h⟩
    · exact .inr ⟨_, exec_ldB_of_le x h, rfl⟩
  | storeRegs x =>
    rcases Nat.lt_or_ge 0xFFF (s.i.toNat + x.val) with h | h
    · exact .inl ⟨_, _, .storeRegs x h⟩
    · exact .inr ⟨_, exec_storeRegs_of_le x h, rfl⟩
  | loadRegs x =>
    rcases Nat.lt_or_ge 0xFFF (s.i.toNat + x.val) with h | h
    · exact .inl ⟨_, _, .loadRegs x h⟩
    · exact .inr ⟨_, exec_loadRegs_of_le x h, rfl⟩
  | drw x y n =>
    by_cases h : n = 0 ∨ s.i.toNat + (n.toNat - 1) ≤ 0xFFF
    · exact .inr ⟨_, exec_drw_of_le x y h, rfl⟩
    · obtain ⟨hn, hout⟩ := not_or.mp h
      exact .inl ⟨_, _, .drw x y (Nat.pos_of_ne_zero (BitVec.toNat_ne.mp hn)) (Nat.lt_of_not_le hout)⟩
  | skp x =>
    cases h : s.latchOf x with
    | none => exact .inl ⟨_, _, .skp x ((s.latchOf_none x).mp h)⟩
    | some pressed => exact .inr ⟨_, exec_skp_of_latchOf h, rfl⟩
  | sknp x =>
    cases h : s.latchOf x with
    | none => exact .inl ⟨_, _, .sknp x ((s.latchOf_none x).mp h)⟩
    | some pressed => exact .inr ⟨_, exec_sknp_of_latchOf h, rfl⟩

/-- Settles O42: an instruction that does not meet a row of the table leaves `status`, and each row is one of the cases. -/
theorem onlyNamedInstructionsRaise : Obligations.OnlyNamedInstructionsRaise := by
  intro i s t hexec hs ht
  rcases raises_or_completes i s with ⟨c, w, hraise⟩ | ⟨u, hu, hstatus⟩
  · cases hexec.symm.trans (exec_of_raises hraise)
    cases hraise with
    | call nnn h => exact .inl ⟨⟨nnn, rfl⟩, h, rfl, rfl⟩
    | ret h => exact .inr (.inl ⟨rfl, h, rfl, rfl⟩)
    | ldB x h => exact .inr (.inr (.inl ⟨.inl ⟨x, rfl, h⟩, rfl, rfl⟩))
    | storeRegs x h => exact .inr (.inr (.inl ⟨.inr (.inl ⟨x, .inl rfl, h⟩), rfl, rfl⟩))
    | loadRegs x h => exact .inr (.inr (.inl ⟨.inr (.inl ⟨x, .inr rfl, h⟩), rfl, rfl⟩))
    | drw x y hn h => exact .inr (.inr (.inl ⟨.inr (.inr ⟨x, y, _, rfl, hn, h⟩), rfl, rfl⟩))
    | skp x h => exact .inr (.inr (.inr ⟨⟨x, .inl rfl, h⟩, rfl, rfl⟩))
    | sknp x h => exact .inr (.inr (.inr ⟨⟨x, .inr rfl, h⟩, rfl, rfl⟩))
  · cases hexec.symm.trans hu
    rw [hstatus, hs] at ht
    exact nomatch ht

/-- Settles O19: two rows of the table. -/
theorem stackLimitsHalt : Obligations.StackLimitsHalt := fun nnn _ =>
  ⟨exec_call_of_full nnn, exec_ret_of_empty⟩

/-! ### the steps that halt -/

/-- Settles O11: an illegal word decodes to nothing (R76). -/
theorem illegalWordHalts : Obligations.IllegalWordHalts := by
  rintro p s op hs hpc rfl hop
  have hc := cycle_of_illegal p hs (s.fetch_of_le hpc) hop
  exact ⟨hc, stepReport_of_halt hc⟩

/-- A step that halts a running core takes one condition and changes nothing but `status` (R170). -/
theorem cycle_halts {p : Config.TimerPolicy} {s t : State} (h : cycle p s = .next t) (hs : s.status.halted = false)
    (ht : t.status.halted = true) : ∃ c w, c ≠ Cause.none ∧ t = s.halt c w := by
  rcases cycle_cases p s with ⟨hs', _⟩ | ⟨_, _, hc⟩ | ⟨_, op, _, _, hc⟩ | ⟨i, u, hi, hu, hc⟩
  · exact nomatch hs.symm.trans hs'
  · cases h.symm.trans hc
    exact ⟨_, _, by decide, rfl⟩
  · cases h.symm.trans hc
    exact ⟨_, _, by decide, rfl⟩
  · rcases exec_status hu with hkeep | ⟨c, w, hc', rfl⟩
    · cases h.symm.trans hc
      rw [timerPhase_status, hkeep, hs] at ht
      exact nomatch ht
    · cases h.symm.trans (cycle_of_exec_halt p hi hu)
      exact ⟨c, w, hc', rfl⟩

/-- Settles O41: the halted state is the state before with one condition recorded. -/
theorem fatalStepChangesOnlyStatus : Obligations.FatalStepChangesOnlyStatus := by
  intro p s t h hs ht
  obtain ⟨c, w, hc, rfl⟩ := cycle_halts h hs ht
  exact ⟨rfl, hc⟩

end Sys2Proof.Machine

/-! The timers and their two policies (R174 to R177): a tick, the one instruction that writes each timer and the one that reads
DT, and a step under `per_step` as the step under `decoupled` and a tick after it. -/

namespace Sys2Proof.Machine

/-! ### ticks -/

/-- Ticks take 1 each from ST until it is 0 (R174). -/
theorem State.ticks_st_toNat (k : Nat) (s : State) : (State.ticks k s).st.toNat = s.st.toNat - k := by
  induction k generalizing s with
  | zero => rfl
  | succ k ih =>
    have htick : s.tick.st.toNat = s.st.toNat - 1 := countDown_toNat s.st
    rw [State.ticks, ih s.tick, htick, Nat.sub_sub, Nat.add_comm]

theorem byte_eq_zero_iff_of_toNat_sub {b : Byte} {v k : Nat} (h : b.toNat = v - k) : b = 0 ↔ v ≤ k := by
  rw [← Nat.sub_eq_zero_iff_le, ← h]
  exact BitVec.toNat_eq

theorem output_tick (p : Config.TimerPolicy) (s : State) (fired : Bool) :
    output p .tick s = .toneFired fired ↔ s.toneFired = fired := Output.toneFired.injEq .. ▸ Iff.rfl

/-- Settles O38: a tick counts each timer down, and its output is read off ST. -/
theorem tickResult : Obligations.TickResult := fun p s =>
  ⟨⟨s.tick, rfl, countDown_toNat s.dt, countDown_toNat s.st, rfl⟩,
    (output_tick p s true).trans s.toneFired_iff,
    (output_tick p s false).trans (Bool.eq_false_iff.trans (not_congr s.toneFired_iff)),
    fun k => ⟨byte_eq_zero_iff_of_toNat_sub (s.ticks_dt_toNat k), byte_eq_zero_iff_of_toNat_sub (s.ticks_st_toNat k)⟩⟩

/-- Settles O39: the level and the event are numbers of ST, which after k ticks is k less. -/
theorem toneFiresOnce : Obligations.ToneFiresOnce := by
  intro s k
  rw [State.toneActive_iff, State.toneFired_iff, State.ticks_st_toNat]
  constructor <;> omega

/-! ### the instructions that write and read a timer -/

theorem exec_dt {i : Instr} {s t : State} (h : exec i s = .next t) :
    t.dt = s.dt ∨ ∃ x, i = .ldDtVx x ∧ t.dt = s.reg x := by
  by_cases hi : ∃ x, i = .ldDtVx x
  · obtain ⟨x, rfl⟩ := hi
    cases h
    exact .inr ⟨x, rfl, rfl⟩
  · exact .inl ((exec_effect h).dt (not_exists.mp hi))

theorem exec_st {i : Instr} {s t : State} (h : exec i s = .next t) :
    t.st = s.st ∨ ∃ x, i = .ldStVx x ∧ t.st = s.reg x := by
  by_cases hi : ∃ x, i = .ldStVx x
  · obtain ⟨x, rfl⟩ := hi
    cases h
    exact .inr ⟨x, rfl, rfl⟩
  · exact .inl ((exec_effect h).st (not_exists.mp hi))

/-- A step with no instruction to run leaves the core halted and everything but `status` as it was, and the policy plays no part
in it (R38, R161, R164). -/
theorem cycle_of_current_none {s : State} (h : s.current = none) :
    ∃ status : Status, status.halted = true ∧ ∀ p, cycle p s = .next { s with status := status } := by
  rcases cycle_cases .decoupled s with ⟨hs, _⟩ | ⟨hs, hpc, _⟩ | ⟨hs, op, hf, hd, _⟩ | ⟨i, _, hi, _⟩
  · exact ⟨s.status, hs, fun p => cycle_halted p hs⟩
  · exact ⟨_, rfl, fun p => cycle_of_fetch_outside p hs hpc⟩
  · exact ⟨_, rfl, fun p => cycle_of_illegal p hs hf ((decodeInstr_none_iff_illegalByClass op).mp hd)⟩
  · exact nomatch h.symm.trans hi

/-- Settles O40: a step with no instruction to run leaves both timers, and any other is its instruction. -/
theorem stepsLeaveTimersAlone : Obligations.StepsLeaveTimersAlone := by
  intro s t h
  cases hcur : s.current with
  | some i =>
    have hexec : exec i s = .next t := (step_current hcur).symm.trans h
    exact ⟨(exec_dt hexec).imp_right fun ⟨x, hi, hx⟩ => ⟨x, congrArg some hi, hx⟩,
      (exec_st hexec).imp_right fun ⟨x, hi, hx⟩ => ⟨x, congrArg some hi, hx⟩⟩
  | none =>
    obtain ⟨_, _, hcycle⟩ := cycle_of_current_none hcur
    cases h.symm.trans (hcycle .decoupled)
    exact ⟨.inl rfl, .inl rfl⟩

/-- Both timers replaced. -/
def State.setTimers (s : State) (d e : Byte) : State := { s with dt := d, st := e }

theorem State.consumeRnd_setTimers (s : State) (d e : Byte) :
    (s.setTimers d e).consumeRnd = s.consumeRnd.setTimers d e := by
  cases h : s.rndIn <;> simp only [State.consumeRnd, State.setTimers, h]

/-- An access at I does not depend on the timers if what it guards does not. -/
theorem State.withAccess_setTimers (s : State) (d e d' e' : Byte) (last : Nat) {r r' : Result}
    (h : r'.map (·.setTimers d' e') = r.map (·.setTimers d' e')) :
    ((s.setTimers d e).withAccess last r').map (·.setTimers d' e') =
      (s.withAccess last r).map (·.setTimers d' e') := by
  rcases Nat.lt_or_ge 0xFFF (s.i.toNat + last) with hout | hin
  · rw [s.withAccess_of_gt last r hout, (s.setTimers d e).withAccess_of_gt last r' hout]
    rfl
  · rw [s.withAccess_of_le last r hin, (s.setTimers d e).withAccess_of_le last r' hin, h]

/-- An instruction other than FX07 does the same whatever the timers hold, the timers themselves aside (R177): both answers
are taken with the timers at d' and e'. -/
theorem exec_setTimers {i : Instr} (hi : ∀ x, i ≠ .ldVxDt x) (s : State) (d e d' e' : Byte) :
    Result.map (·.setTimers d' e') (exec i (s.setTimers d e)) = Result.map (·.setTimers d' e') (exec i s) := by
  cases i
  case ldVxDt x => exact absurd rfl (hi x)
  case ret =>
    by_cases h : s.sp.val = 0
    · rw [exec_ret_of_empty h, exec_ret_of_empty (s := s.setTimers d e) h]; rfl
    · obtain ⟨k, hk⟩ := State.exists_top h
      rw [exec_ret_of_top hk, exec_ret_of_top (s := s.setTimers d e) hk]; rfl
  case call nnn =>
    by_cases h : s.sp.val = 16
    · rw [exec_call_of_full nnn h, exec_call_of_full (s := s.setTimers d e) nnn h]; rfl
    · have hfree := State.sp_lt_of_ne h
      rw [exec_call_of_free nnn hfree, exec_call_of_free (s := s.setTimers d e) nnn hfree]; rfl
  case skp x =>
    cases h : s.latchOf x with
    | none =>
      have hout := (s.latchOf_none x).mp h
      rw [exec_skp_of_gt x hout, exec_skp_of_gt (s := s.setTimers d e) x hout]; rfl
    | some pressed => rw [exec_skp_of_latchOf h, exec_skp_of_latchOf (s := s.setTimers d e) h]; rfl
  case sknp x =>
    cases h : s.latchOf x with
    | none =>
      have hout := (s.latchOf_none x).mp h
      rw [exec_sknp_of_gt x hout, exec_sknp_of_gt (s := s.setTimers d e) x hout]; rfl
    | some pressed => rw [exec_sknp_of_latchOf h, exec_sknp_of_latchOf (s := s.setTimers d e) h]; rfl
  case ldVxK x =>
    show Result.map _ (execLdVxK x (s.setTimers d e)) = Result.map _ (execLdVxK x s)
    have hkey : (s.setTimers d e).key = s.key := rfl
    unfold execLdVxK
    rw [hkey]
    cases keySelect s.key <;> rfl
  case rnd x nn =>
    show Result.map _ (complete ((s.setTimers d e).consumeRnd.setReg x (s.rndByte &&& nn)).advance) = _
    rw [s.consumeRnd_setTimers]
    rfl
  case drw x y n =>
    show Result.map _ (execDrw x y n (s.setTimers d e)) = Result.map _ (execDrw x y n s)
    unfold execDrw
    split
    · rfl
    · exact s.withAccess_setTimers d e d' e' _ rfl
  case ldB | storeRegs | loadRegs => exact s.withAccess_setTimers d e d' e' _ rfl
  all_goals rfl

/-- Settles O56: the two answers agree once the timers of the first are put into both. -/
theorem timersReadByFx07Only : Obligations.TimersReadByFx07Only := by
  intro i s t d e hi h
  obtain ⟨t', ht'⟩ := exec_next i (s.setTimers d e)
  have hagree := exec_setTimers hi s d e t.dt t.st
  rw [h, ht'] at hagree
  exact ⟨t', ht', Host.Outcome.next.inj hagree⟩

/-! ### a step under either policy -/

theorem stepReport_of_halted {p : Config.TimerPolicy} {s u : State} (h : cycle p s = .next u)
    (hu : u.status.halted = true) : stepReport p s = .fault u.status.cause u.status.info := by
  simp only [stepReport, h, hu, if_true]

/-- The outcome does not depend on the policy. -/
theorem stepReport_policy (p q : Config.TimerPolicy) (s : State) : stepReport p s = stepReport q s := by
  cases hc : s.current with
  | none =>
    obtain ⟨_, hhalted, hcycle⟩ := cycle_of_current_none hc
    rw [stepReport_of_halted (hcycle p) hhalted, stepReport_of_halted (hcycle q) hhalted]
  | some i =>
    obtain ⟨t, ht⟩ := exec_next i s
    rw [stepReport_current p hc ht, stepReport_current q hc ht]

theorem timerPhase_perStep (r : Report) (t : State) :
    timerPhase .perStep r t = if r = .ok then t.tick else t := by
  cases r with
  | ok | waiting | fault => rfl

/-- A step under `per_step` is the step under `decoupled`, with a tick after it when the outcome is `Ok` (R176). -/
theorem cycle_perStep {s u : State} (h : cycle .decoupled s = .next u) :
    cycle .perStep s = .next (if stepReport .perStep s = .ok then u.tick else u) := by
  cases hc : s.current with
  | none =>
    obtain ⟨_, hhalted, hcycle⟩ := cycle_of_current_none hc
    cases h.symm.trans (hcycle .decoupled)
    rw [hcycle, stepReport_of_halted (hcycle .perStep) hhalted, if_neg nofun]
  | some i =>
    have hu : exec i s = .next u := (step_current hc).symm.trans h
    rw [cycle_current _ hc, executePhase_next _ hu, timerPhase_perStep, stepReport_current _ hc hu]

/-- The tick of a step under `per_step` comes after what the instruction wrote (R176). -/
theorem stepTone_perStep {s u : State} (h : cycle .decoupled s = .next u) :
    stepTone .perStep s = (decide (stepReport .perStep s = .ok) && u.toneFired) := by
  cases hc : s.current with
  | none =>
    obtain ⟨_, hhalted, hcycle⟩ := cycle_of_current_none hc
    rw [stepTone_none _ hc, stepReport_of_halted (hcycle .perStep) hhalted]
    rfl
  | some i =>
    have hu : exec i s = .next u := (step_current hc).symm.trans h
    rw [stepTone_current _ hc hu, stepReport_current _ hc hu, timerTone_eq]
    rfl

/-- Settles O14: the step under `decoupled` is the instruction alone. -/
theorem perStepTicksAfterOk : Obligations.PerStepTicksAfterOk := by
  intro s t i hc ht
  have hdecoupled : cycle .decoupled s = .next t := (step_current hc).trans ht
  exact ⟨cycle_perStep hdecoupled, hdecoupled⟩

/-- The event `Step` takes the input `rnd` away from the state its step goes to. -/
theorem react_step_of_cycle {p : Config.TimerPolicy} {r : Byte} {s u : State}
    (h : cycle p (s.supplyRnd r) = .next u) : react p (.step r) s = .next u.dropRnd := by
  simp only [react, stepRnd, h]

theorem State.toneFired_eq_decide (s : State) : s.toneFired = decide (s.st.toNat = 1) :=
  Bool.eq_iff_iff.mpr (s.toneFired_iff.trans decide_eq_true_iff.symm)

/-- Settles O57: both policies run the same step, and `per_step` ticks after it when its outcome is `Ok`. -/
theorem stepToneResult : Obligations.StepToneResult := by
  intro r s
  obtain ⟨u, hu⟩ := everyStepAnswersNext .decoupled (s.supplyRnd r)
  have hcycle := cycle_perStep hu
  have htone := stepTone_perStep hu
  refine ⟨u.dropRnd, stepReport .perStep (s.supplyRnd r), react_step_of_cycle hu, ?_, fun hok => ?_, fun hno => ?_⟩
  · rw [output, stepTone_decoupled, stepReport_policy]
  · rw [if_pos hok] at hcycle
    refine ⟨react_step_of_cycle hcycle, ?_⟩
    rw [output, htone, hok, u.toneFired_eq_decide]
    rfl
  · rw [if_neg hno] at hcycle
    refine ⟨react_step_of_cycle hcycle, ?_⟩
    rw [output, htone, decide_eq_false hno, Bool.false_and]

/-! ### the ticks of `per_step` as events of their own -/

theorem react_next (p : Config.TimerPolicy) (e : Event) (s : State) : ∃ t, react p e s = .next t := by
  cases e with
  | reset | hostWriteMem | hostSetKeys | tick => exact ⟨_, rfl⟩
  | step r =>
    obtain ⟨u, hu⟩ := everyStepAnswersNext p (s.supplyRnd r)
    exact ⟨_, react_step_of_cycle hu⟩

theorem runEvents_cons_of_next {p : Config.TimerPolicy} {e : Event} {s u : State} (h : react p e s = .next u)
    (es : List Event) : runEvents p (e :: es) s = runEvents p es u := by
  simp only [runEvents, h]

theorem runEvents_append {p : Config.TimerPolicy} {es : List Event} {s u : State} (h : runEvents p es s = .next u)
    (fs : List Event) : runEvents p (es ++ fs) s = runEvents p fs u := by
  induction es generalizing s with
  | nil => cases h; rfl
  | cons e es ih =>
    obtain ⟨v, hv, hu⟩ := runEvents_cons h
    rw [List.cons_append, runEvents_cons_of_next hv, ih hu]

theorem withTicks_cons {e : Event} {s u : State} (h : react .perStep e s = .next u) (es : List Event) :
    withTicks (e :: es) s = e :: (tickAfter e s ++ withTicks es u) := by
  simp only [withTicks, h]

/-- An event under `per_step` is the event under `decoupled` and the tick written after it (R176). -/
theorem runEvents_tickAfter {e : Event} {s t : State} (h : react .perStep e s = .next t) :
    runEvents .decoupled (e :: tickAfter e s) s = .next t := by
  cases e with
  | reset | hostWriteMem | hostSetKeys | tick => exact h
  | step r =>
    obtain ⟨u, hu⟩ := everyStepAnswersNext .decoupled (s.supplyRnd r)
    cases h.symm.trans (react_step_of_cycle (cycle_perStep hu))
    rw [runEvents_cons_of_next (react_step_of_cycle hu), tickAfter]
    split <;> rfl

theorem filter_tickAfter (e : Event) (s : State) : (tickAfter e s).filter (fun e => e ≠ .tick) = [] := by
  cases e with
  | reset | hostWriteMem | hostSetKeys | tick => rfl
  | step r =>
    rw [tickAfter]
    split <;> rfl

theorem admissible_cons {p : Config.TimerPolicy} {ph : Phase} {e : Event} {es : List Event} :
    admissible p ph (e :: es) = true ↔ ∃ ph', ph.allow p e = some ph' ∧ admissible p ph' es = true := by
  cases h : ph.allow p e <;> simp [admissible, h]

/-- Under `per_step` there is no `Tick` event (R176), and what the host may issue there it may issue under `decoupled` too. -/
theorem Phase.allow_decoupled_of_perStep {ph ph' : Phase} {e : Event} (h : ph.allow .perStep e = some ph') :
    e ≠ .tick ∧ ph.allow .decoupled e = some ph' := by
  cases e with
  | reset | hostWriteMem | hostSetKeys | step => exact ⟨nofun, by cases ph <;> exact h⟩
  | tick => cases ph <;> exact nomatch h

/-- A step has started the run, and from there on `decoupled` allows a tick (R192). -/
theorem admissible_tickAfter {ph ph' : Phase} {e : Event} (h : ph.allow .perStep e = some ph') (s : State)
    {es : List Event} (hes : admissible .decoupled ph' es = true) :
    admissible .decoupled ph' (tickAfter e s ++ es) = true := by
  cases e with
  | reset | hostWriteMem | hostSetKeys | tick => exact hes
  | step r =>
    have hstarted : ph' = .started := by cases ph <;> cases h <;> rfl
    subst hstarted
    rw [tickAfter]
    split <;> exact hes

/-- Settles O52, event by event: each event, with its tick after it, is admitted from the same phase to the same phase and leads
to the same state. -/
theorem perStepIsAnInterleaving : Obligations.PerStepIsAnInterleaving := by
  intro ph es s hadm
  induction es generalizing ph s with
  | nil => exact ⟨rfl, rfl, s, rfl, rfl⟩
  | cons e es ih =>
    obtain ⟨ph', hallow, hes⟩ := admissible_cons.mp hadm
    obtain ⟨hne, hallow'⟩ := Phase.allow_decoupled_of_perStep hallow
    obtain ⟨u, hu⟩ := react_next .perStep e s
    obtain ⟨hfilter, hticks, t, hper, hdec⟩ := ih ph' u hes
    rw [withTicks_cons hu]
    refine ⟨?_, admissible_cons.mpr ⟨ph', hallow', admissible_tickAfter hallow s hticks⟩, t, ?_, ?_⟩
    · rw [List.filter_cons, if_pos (decide_eq_true hne), List.filter_append, filter_tickAfter, hfilter, List.nil_append]
    · rw [runEvents_cons_of_next hu, hper]
    · rw [← List.cons_append, runEvents_append (runEvents_tickAfter hu), hdec]

end Sys2Proof.Machine

/-! Launch and rest (70_reset_and_hazards.md R191 to R205): the step that meets no program, the loader's writes as one run of
bytes, and the states that a step leaves as they are. -/

namespace Sys2Proof.Machine

/-! ### reset and launch -/

/-- Settles O45: memory lists nothing after a reset and the font ends below 0x200, so the fetched word is 0x0000, which is
illegal. -/
theorem noProgramHalts : Obligations.NoProgramHalts :=
  (illegalWordHalts .decoupled State.reset 0x0000 rfl (by decide) rfl (.inl (by decide))).1

/-- A run of writes with one byte more ends in that byte's own write (R54). -/
theorem Memory.writeBytes_concat (m : Memory) (a : Nat) (bs : List Byte) (b : Byte) :
    m.writeBytes a (bs ++ [b]) = (m.writeBytes a bs).write (a + bs.length) b := by
  induction bs generalizing m a with
  | nil => rfl
  | cons c bs ih =>
    rw [List.length_cons, Nat.add_comm bs.length, ← Nat.add_assoc]
    exact ih (m.write a c) (a + 1)

theorem loadEvents_concat (rom : List Byte) (b : Byte) :
    loadEvents (rom ++ [b]) = loadEvents rom ++ [.hostWriteMem (Fin.ofNat 3584 rom.length) b] :=
  List.mapIdx_concat

/-- The loader's events write the ROM as one run of bytes at 0x200 and nothing else (R193). -/
theorem runEvents_loadEvents (p : Config.TimerPolicy) {rom : List Byte} (h : rom.length ≤ 3584) (s : State) :
    runEvents p (loadEvents rom) s = .next { s with mem := s.mem.writeBytes Config.progBase rom } := by
  induction rom using List.reverseRecOn with
  | nil => rfl
  | append_singleton rom b ih =>
    rw [List.length_append, List.length_singleton] at h
    have hoffset : Fin.ofNat 3584 rom.length = ⟨rom.length, h⟩ := Fin.ext (Nat.mod_eq_of_lt h)
    rw [loadEvents_concat, hoffset, runEvents_append (ih (Nat.le_of_lt h)), Memory.writeBytes_concat]
    rfl

/-- Settles O46: the ROM is one run of bytes in memory, and the loader's events write the same run. -/
theorem launchStateHoldsTheRom : Obligations.LaunchStateHoldsTheRom := by
  intro p rom u
  refine ⟨fun h => ⟨_, if_pos h, fun k hk => ?_, fun a ha => ?_, rfl, ?_⟩, fun h => if_neg (Nat.not_le.mpr h)⟩
  · have hin : Config.progBase + rom.length ≤ Config.memSize := Nat.add_le_add_left h 0x200
    refine (Memory.read_writeBytes rom _ _ _ hin).trans ?_
    rw [dif_pos ⟨Nat.le_add_right _ _, Nat.add_lt_add_left hk _⟩]
    simp only [Nat.add_sub_cancel_left]
  · exact Memory.read_writeBytes_outside rom _ _ a ha
  · exact runEvents_loadEvents p h u.resetEvent

/-! ### the instructions that leave pc and SP -/

/-- The answer is a next state that is halted or differs from s in pc or SP. -/
def Progresses (s : State) (r : Result) : Prop :=
  ∃ t, r = .next t ∧ (t.status.halted = true ∨ t.pc ≠ s.pc ∨ t.sp ≠ s.sp)

theorem progresses_raise (s : State) (c : Cause) (w : Word) : Progresses s (raise c w s) := ⟨_, rfl, .inl rfl⟩

theorem progresses_next {s t : State} (h : t.pc = s.pc + 2) : Progresses s (complete t) :=
  ⟨t, rfl, .inr (.inl (by bv_omega))⟩

theorem progresses_skipIf (s : State) (c : Bool) : Progresses s (complete (s.skipIf c)) := by
  refine ⟨_, rfl, .inr (.inl ?_)⟩
  rw [State.skipIf_pc]
  split <;> bv_omega

theorem progresses_withAccess {s : State} {k : Nat} {r : Result} (h : Progresses s r) : Progresses s (s.withAccess k r) := by
  unfold State.withAccess
  split
  · exact h
  · exact progresses_raise s _ _

theorem progresses_call (nnn : Addr) (s : State) : Progresses s (exec (.call nnn) s) := by
  by_cases h : s.sp.val = 16
  · exact ⟨_, exec_call_of_full nnn h, .inl rfl⟩
  · exact ⟨_, exec_call_of_free nnn (State.sp_lt_of_ne h), .inr (.inr (Fin.ne_of_val_ne (Nat.succ_ne_self _)))⟩

theorem progresses_ret (s : State) : Progresses s (exec .ret s) := by
  by_cases h : s.sp.val = 0
  · exact ⟨_, exec_ret_of_empty h, .inl rfl⟩
  · obtain ⟨k, hk⟩ := State.exists_top h
    exact ⟨_, exec_ret_of_top hk, .inr (.inr (Fin.ne_of_val_ne (hk ▸ Nat.ne_of_lt k.val.lt_succ_self)))⟩

theorem progresses_drw (x y : RegNum) (n : Nibble) (s : State) : Progresses s (execDrw x y n s) := by
  unfold execDrw
  split
  · exact progresses_next rfl
  · exact progresses_withAccess (progresses_next rfl)

theorem progresses_skp (x : RegNum) (s : State) : Progresses s (execSkp x s) := by
  unfold execSkp
  split
  · exact progresses_skipIf s _
  · exact progresses_raise s _ _

theorem progresses_sknp (x : RegNum) (s : State) : Progresses s (execSknp x s) := by
  unfold execSknp
  split
  · exact progresses_skipIf s _
  · exact progresses_raise s _ _

theorem progresses_ldVxK (x : RegNum) {s : State} (h : Instr.waits (.ldVxK x) s = false) :
    Progresses s (execLdVxK x s) := by
  unfold execLdVxK
  split
  · next hk => exact nomatch (congrArg Option.isNone hk).symm.trans h
  · exact progresses_next rfl

/-- "every other instruction that completes changes `pc`, `SP` or both" (R205): other than the two jumps and a wait. -/
theorem exec_progresses {i : Instr} {s : State} (hjump : ∀ nnn, i ≠ .jp nnn ∧ i ≠ .jpV0 nnn)
    (hwaits : Instr.waits i s = false) : Progresses s (exec i s) := by
  cases i with
  | jp nnn => exact absurd rfl (hjump nnn).1
  | jpV0 nnn => exact absurd rfl (hjump nnn).2
  | call nnn => exact progresses_call nnn s
  | ret => exact progresses_ret s
  | seImm | sneImm | seReg | sneReg => exact progresses_skipIf s _
  | skp x => exact progresses_skp x s
  | sknp x => exact progresses_sknp x s
  | ldVxK x => exact progresses_ldVxK x hwaits
  | drw x y n => exact progresses_drw x y n s
  | ldB | storeRegs | loadRegs => exact progresses_withAccess (progresses_next rfl)
  | rnd => exact progresses_next (congrArg (· + 2) s.consumeRnd_pc)
  | cls | ldImm | addImm | ldReg | orReg | andReg | xorReg | addReg | subReg | shr | subnReg | shl =>
    exact progresses_next rfl
  | ldI | addI | ldF | ldVxDt | ldDtVx | ldStVx => exact progresses_next rfl

/-! ### at rest -/

theorem reportOf_ok_iff (i : Instr) (s t : State) :
    reportOf i s t = .ok ↔ t.status.halted = false ∧ Instr.waits i s = false := by
  unfold reportOf
  cases t.status.halted <;> cases Instr.waits i s <;> simp

/-- The outcome is `Ok` exactly when there is an instruction to run, which neither raises nor waits (R37). -/
theorem stepReport_ok_iff (p : Config.TimerPolicy) (s : State) :
    stepReport p s = .ok ↔ ∃ i t, s.current = some i ∧ exec i s = .next t ∧ t.status.halted = false ∧
      Instr.waits i s = false := by
  cases hc : s.current with
  | none =>
    obtain ⟨_, hhalted, hcycle⟩ := cycle_of_current_none hc
    simp [stepReport_of_halted (hcycle p) hhalted]
  | some i =>
    obtain ⟨t, ht⟩ := exec_next i s
    simp [stepReport_current p hc ht, reportOf_ok_iff, ht]

/-- An instruction that answers the state it started from, and does not wait, keeps the machine at rest. -/
theorem atRest_of_exec_self {s : State} {i : Instr} (hrnd : s.rndIn = none) (hc : s.current = some i)
    (hwaits : Instr.waits i s = false) (hexec : ∀ r, exec i (s.supplyRnd r) = .next (s.supplyRnd r)) :
    s.AtRest .decoupled := by
  intro r
  have hdrop : (s.supplyRnd r).dropRnd = s := by rw [State.dropRnd, ← hrnd]; rfl
  refine ⟨(react_step_decoupled hc (hexec r)).trans (congrArg _ hdrop), (stepReport_ok_iff _ _).mpr ?_⟩
  exact ⟨i, _, hc, hexec r, (State.current_some.mp hc).1, hwaits⟩

/-- A jump to the pc it was fetched from changes nothing (R92). -/
theorem State.complete_setPc_self {s : State} {w : Word} (h : w.toNat = s.pc.toNat) : complete (s.setPc w) = .next s := by
  rw [BitVec.eq_of_toNat_eq h]
  rfl

/-- A state at rest runs one of the two jumps, and it goes to pc: anything else would halt, wait or change pc or SP. -/
theorem selfJump_of_atRest {s : State} (h : s.AtRest .decoupled) : ∃ nnn : Addr,
    (s.current = some (.jp nnn) ∧ nnn.toNat = s.pc.toNat) ∨
    (s.current = some (.jpV0 nnn) ∧ nnn.toNat + (s.reg 0).toNat = s.pc.toNat) := by
  obtain ⟨hstep, hok⟩ := h 0
  obtain ⟨i, t, hc, hexec, hrun, hwaits⟩ := (stepReport_ok_iff _ _).mp hok
  have hfix : t.dropRnd = s := Host.Outcome.next.inj ((react_step_decoupled hc hexec).symm.trans hstep)
  have hpc : t.pc = s.pc := (congrArg State.pc hfix :)
  have hsp : t.sp = s.sp := (congrArg State.sp hfix :)
  by_cases hjump : ∀ nnn, i ≠ .jp nnn ∧ i ≠ .jpV0 nnn
  · obtain ⟨u, hu, hmoves⟩ := exec_progresses hjump hwaits
    cases hexec.symm.trans hu
    rcases hmoves with hhalted | hne | hne
    · exact nomatch hrun.symm.trans hhalted
    · exact absurd hpc hne
    · exact absurd hsp hne
  · simp only [not_forall, not_and_or, not_not] at hjump
    obtain ⟨nnn, rfl | rfl⟩ := hjump
    · cases hexec
      exact ⟨nnn, .inl ⟨hc, (extendAddr_toNat nnn).symm.trans (congrArg BitVec.toNat hpc)⟩⟩
    · cases hexec
      exact ⟨nnn, .inr ⟨hc, (extendAddr_add_extendByte_toNat nnn (s.reg 0)).symm.trans (congrArg BitVec.toNat hpc)⟩⟩

/-- Settles O53: a jump to itself answers its own state for every `rnd`, and nothing else does with outcome `Ok`. -/
theorem atRestIffSelfJump : Obligations.AtRestIffSelfJump := by
  refine fun s hrnd => ⟨selfJump_of_atRest, ?_⟩
  rintro ⟨nnn, ⟨hc, hself⟩ | ⟨hc, hself⟩⟩
  · exact atRest_of_exec_self hrnd hc rfl fun _ => State.complete_setPc_self ((extendAddr_toNat nnn).trans hself)
  · exact atRest_of_exec_self hrnd hc rfl fun _ =>
      State.complete_setPc_self ((extendAddr_add_extendByte_toNat nnn (s.reg 0)).trans hself)

end Sys2Proof.Machine
